-- ==== Sys2Proof/Word.lean ====
section
/-! DEFINITION. The word types of the machine (00_scope.md R5, R6; 10_state.md R11, R14, R15; 20_memory.md R40). Every value is unsigned. -/

namespace Sys2Proof

/-- A register, timer, immediate or memory byte: `XLEN` = 8 bits (R5, R11). -/
abbrev Byte := BitVec 8

/-- `I`, `pc`, a call stack entry or an instruction word: 16 bits (R5, R14, R15, R60). -/
abbrev Word := BitVec 16

/-- A register number, key index or sprite height: a 4-bit field (R61). -/
abbrev Nibble := BitVec 4

/-- A meaningful address: `ADDR_BITS` = 12 bits, 0x000 to 0xFFF (R5, R40); also the field `nnn` (R61). -/
abbrev Addr := BitVec 12

end Sys2Proof
end

