-- ==== Sys2Proof/Config.lean ====
section
/-! DEFINITION. The parameters of 00_scope.md R5, those the spec leaves OPEN as the arguments `Params` of reset (their defaults stand in Machine/Params.lean), and the one free value of the machine (40_alu.md R92). -/

namespace Sys2Proof

/-- The 80 bytes of a `FONT` (R5, R50). -/
abbrev Font := Vector Byte 80

/-- The OPEN parameters of the machine (R5, D1, D2, U8, U9): fixed when it is created, changed by no step. -/
structure Params where
  /-- `SCREEN_X`, the display width (D1: at least 1). -/
  screenX : Nat
  /-- `SCREEN_Y`, the display height (D1: at least 1). -/
  screenY : Nat
  /-- `FONT`, the bytes reset seeds at `FONT_BASE` (R50, D2). -/
  font : Font
  deriving DecidableEq, Repr

/-- `MEM_SIZE`: bytes of memory (R5, R40). -/
abbrev Config.memSize : Nat := 4096

/-- `PROG_BASE`: load address and reset `pc` (R5). -/
abbrev Config.progBase : Nat := 0x200

/-- `PROG_MAX`: largest program in bytes, 0x1000 - 0x200 (R5, R52). -/
abbrev Config.progMax : Nat := Config.memSize - Config.progBase

/-- `FONT_BASE`: the font region starts here (R5, R50). -/
abbrev Config.fontBase : Nat := 0x50

/-- `FONT_END`: the first address past the font region (R5). -/
abbrev Config.fontEnd : Nat := 0xA0

/-- `GLYPH_BYTES`: bytes per font glyph (R5, R50). -/
abbrev Config.glyphBytes : Nat := 5

/-- The random byte `Rand()` of tick number `n` where the host fixed none: a FREE VALUE. It has no body, so
nothing can be proved of it and a claim holds for every draw (R92, D14, U10; log 2). -/
opaque Config.rand : Nat → Byte

end Sys2Proof
end

