-- ==== Sys2Proof/Syntax.lean ====
section
/-! DEFINITION. The instruction set: one constructor per row of the opcode table (30_encoding.md R63). Every field has the width the encoding gives it (R61), so no term holds an operand the encoding cannot (log 15). -/

namespace Sys2Proof

/-- The 34 instructions of R63, in its order. `x` and `y` are register numbers, `nn` an 8-bit immediate, `nnn` a
12-bit address, `n` a sprite height. `shr` and `shl` carry `y` because the word encodes it, although no meaning reads
it (R88, R90). -/
inductive Instr where
  /-- `00E0`, `CLS` (R121). -/
  | cls
  /-- `00EE`, `RET` (R104). -/
  | ret
  /-- `1NNN`, `JP nnn` (R101). -/
  | jp (nnn : Addr)
  /-- `2NNN`, `CALL nnn` (R103). -/
  | call (nnn : Addr)
  /-- `3XNN`, `SE Vx, nn` (R105). -/
  | seImm (x : Nibble) (nn : Byte)
  /-- `4XNN`, `SNE Vx, nn` (R106). -/
  | sneImm (x : Nibble) (nn : Byte)
  /-- `5XY0`, `SE Vx, Vy` (R107). -/
  | seReg (x y : Nibble)
  /-- `6XNN`, `LD Vx, nn` (R80). -/
  | ldImm (x : Nibble) (nn : Byte)
  /-- `7XNN`, `ADD Vx, nn` (R81). -/
  | addImm (x : Nibble) (nn : Byte)
  /-- `8XY0`, `LD Vx, Vy` (R82). -/
  | ldReg (x y : Nibble)
  /-- `8XY1`, `OR Vx, Vy` (R83). -/
  | orReg (x y : Nibble)
  /-- `8XY2`, `AND Vx, Vy` (R84). -/
  | andReg (x y : Nibble)
  /-- `8XY3`, `XOR Vx, Vy` (R85). -/
  | xorReg (x y : Nibble)
  /-- `8XY4`, `ADD Vx, Vy` (R86). -/
  | addReg (x y : Nibble)
  /-- `8XY5`, `SUB Vx, Vy` (R87). -/
  | subReg (x y : Nibble)
  /-- `8XY6`, `SHR Vx` (R88). -/
  | shr (x y : Nibble)
  /-- `8XY7`, `SUBN Vx, Vy` (R89). -/
  | subn (x y : Nibble)
  /-- `8XYE`, `SHL Vx` (R90). -/
  | shl (x y : Nibble)
  /-- `9XY0`, `SNE Vx, Vy` (R108). -/
  | sneReg (x y : Nibble)
  /-- `ANNN`, `LD I, nnn` (R141). -/
  | ldI (nnn : Addr)
  /-- `BNNN`, `JP V0, nnn` (R102). -/
  | jpV0 (nnn : Addr)
  /-- `CXNN`, `RND Vx, nn` (R91). -/
  | rnd (x : Nibble) (nn : Byte)
  /-- `DXYN`, `DRW Vx, Vy, n` (R122). -/
  | drw (x y n : Nibble)
  /-- `EX9E`, `SKP Vx` (R133). -/
  | skp (x : Nibble)
  /-- `EXA1`, `SKNP Vx` (R134). -/
  | sknp (x : Nibble)
  /-- `FX07`, `LD Vx, DT` (R130). -/
  | ldVxDT (x : Nibble)
  /-- `FX0A`, `LD Vx, K` (R135). -/
  | ldVxK (x : Nibble)
  /-- `FX15`, `LD DT, Vx` (R131). -/
  | ldDTVx (x : Nibble)
  /-- `FX18`, `LD ST, Vx` (R132). -/
  | ldSTVx (x : Nibble)
  /-- `FX1E`, `ADD I, Vx` (R142). -/
  | addI (x : Nibble)
  /-- `FX29`, `LD F, Vx` (R143). -/
  | ldF (x : Nibble)
  /-- `FX33`, `LD B, Vx` (R144). -/
  | ldB (x : Nibble)
  /-- `FX55`, `LD [I], Vx` (R145). -/
  | storeRegs (x : Nibble)
  /-- `FX65`, `LD Vx, [I]` (R146). -/
  | loadRegs (x : Nibble)
  deriving DecidableEq, Repr

/-- The pattern column of R63 for an instruction: which row of the table it is. -/
def Instr.pattern : Instr → String
  | .cls => "00E0"
  | .ret => "00EE"
  | .jp _ => "1NNN"
  | .call _ => "2NNN"
  | .seImm _ _ => "3XNN"
  | .sneImm _ _ => "4XNN"
  | .seReg _ _ => "5XY0"
  | .ldImm _ _ => "6XNN"
  | .addImm _ _ => "7XNN"
  | .ldReg _ _ => "8XY0"
  | .orReg _ _ => "8XY1"
  | .andReg _ _ => "8XY2"
  | .xorReg _ _ => "8XY3"
  | .addReg _ _ => "8XY4"
  | .subReg _ _ => "8XY5"
  | .shr _ _ => "8XY6"
  | .subn _ _ => "8XY7"
  | .shl _ _ => "8XYE"
  | .sneReg _ _ => "9XY0"
  | .ldI _ => "ANNN"
  | .jpV0 _ => "BNNN"
  | .rnd _ _ => "CXNN"
  | .drw _ _ _ => "DXYN"
  | .skp _ => "EX9E"
  | .sknp _ => "EXA1"
  | .ldVxDT _ => "FX07"
  | .ldVxK _ => "FX0A"
  | .ldDTVx _ => "FX15"
  | .ldSTVx _ => "FX18"
  | .addI _ => "FX1E"
  | .ldF _ => "FX29"
  | .ldB _ => "FX33"
  | .storeRegs _ => "FX55"
  | .loadRegs _ => "FX65"

end Sys2Proof
end

