-- ==== Sys2Proof/WellFormed.lean ====
section
/-! DEFINITION. The checks on raw data before it is an instruction or a program: the opcode table of 30_encoding.md R63 as masks and matches (which words are instructions at all), the length of an instruction (R60), the capacity of a loaded program (20_memory.md R52), the sizes a display may have (D1). An `Instr` needs no check of its own: R61's field widths are its fields' types (log 15). -/

namespace Sys2Proof

/-- One row of R63: the word `w` is the instruction if and only if `w &&& mask = bits`. -/
structure OpcodeRow where
  pattern : String
  mask : Word
  bits : Word
  deriving DecidableEq, Repr

/-- Rows 1 to 9 and 19 to 23 of R63: everything outside groups 8, E and F. -/
def opcodeRowsPlain : List OpcodeRow :=
  [⟨"00E0", 0xFFFF, 0x00E0⟩, ⟨"00EE", 0xFFFF, 0x00EE⟩, ⟨"1NNN", 0xF000, 0x1000⟩, ⟨"2NNN", 0xF000, 0x2000⟩,
   ⟨"3XNN", 0xF000, 0x3000⟩, ⟨"4XNN", 0xF000, 0x4000⟩, ⟨"5XY0", 0xF00F, 0x5000⟩, ⟨"6XNN", 0xF000, 0x6000⟩,
   ⟨"7XNN", 0xF000, 0x7000⟩, ⟨"9XY0", 0xF00F, 0x9000⟩, ⟨"ANNN", 0xF000, 0xA000⟩, ⟨"BNNN", 0xF000, 0xB000⟩,
   ⟨"CXNN", 0xF000, 0xC000⟩, ⟨"DXYN", 0xF000, 0xD000⟩]

/-- Rows 10 to 18 of R63: group 8. -/
def opcodeRowsAlu : List OpcodeRow :=
  [⟨"8XY0", 0xF00F, 0x8000⟩, ⟨"8XY1", 0xF00F, 0x8001⟩, ⟨"8XY2", 0xF00F, 0x8002⟩, ⟨"8XY3", 0xF00F, 0x8003⟩,
   ⟨"8XY4", 0xF00F, 0x8004⟩, ⟨"8XY5", 0xF00F, 0x8005⟩, ⟨"8XY6", 0xF00F, 0x8006⟩, ⟨"8XY7", 0xF00F, 0x8007⟩,
   ⟨"8XYE", 0xF00F, 0x800E⟩]

/-- Rows 24 to 34 of R63: groups E and F. -/
def opcodeRowsEF : List OpcodeRow :=
  [⟨"EX9E", 0xF0FF, 0xE09E⟩, ⟨"EXA1", 0xF0FF, 0xE0A1⟩, ⟨"FX07", 0xF0FF, 0xF007⟩, ⟨"FX0A", 0xF0FF, 0xF00A⟩,
   ⟨"FX15", 0xF0FF, 0xF015⟩, ⟨"FX18", 0xF0FF, 0xF018⟩, ⟨"FX1E", 0xF0FF, 0xF01E⟩, ⟨"FX29", 0xF0FF, 0xF029⟩,
   ⟨"FX33", 0xF0FF, 0xF033⟩, ⟨"FX55", 0xF0FF, 0xF055⟩, ⟨"FX65", 0xF0FF, 0xF065⟩]

/-- The 34 rows of R63. -/
def opcodeRows : List OpcodeRow := opcodeRowsPlain ++ opcodeRowsAlu ++ opcodeRowsEF

/-- `w` matches the row (R63). -/
def OpcodeRow.hits (r : OpcodeRow) (w : Word) : Bool := w &&& r.mask == r.bits

/-- A word is an instruction when some row of R63 matches it; every other word is an `UnknownOpcode` (R66). -/
def WellFormed.word (w : Word) : Bool := opcodeRows.any (·.hits w)

/-- The bytes of an instruction are exactly two, high byte first, and their word is one of the table's (R60, R63). -/
def WellFormed.instrBytes : List Byte → Bool
  | [hi, lo] => WellFormed.word (hi ++ lo)
  | _ => false

/-- A program fits `[0x200, 0x1000)`: at most 3584 bytes (R52, R53). -/
def WellFormed.program (bytes : List Byte) : Bool := bytes.length ≤ Config.progMax

/-- The display has at least one column and one row (D1). Every `Font` is 80 bytes by its type (D2). -/
def WellFormed.params (p : Params) : Bool := 1 ≤ p.screenX && 1 ≤ p.screenY

end Sys2Proof
end

