-- ==== Sys2Proof/Decode.lean ====
section
/-! DEFINITION. The decoder of 30_encoding.md R64, total on words and on byte sequences, and after it the encoder, written from the encodings of the instruction rules (R61 to R63). -/

namespace Sys2Proof

/-- What decoding a word answers: an instruction, or a named rejection. -/
inductive Decoded where
  /-- One of the 34 instructions of R63. -/
  | instr (i : Instr)
  /-- The word matches no pattern: `Unknown(w)` (R64, R66). Not an error of the machine: it reports and skips it. -/
  | unknownOpcode (w : Word)
  deriving DecidableEq, Repr

/-- What decoding a byte sequence answers. -/
inductive BytesDecoded where
  /-- The first two bytes, decoded. -/
  | word (d : Decoded)
  /-- Fewer than two bytes were given (R60). The machine's own fetch always gives two (R46). -/
  | truncated
  deriving DecidableEq, Repr

/-- `op` = `w[15:12]` (R61). -/
def fieldOp (w : Word) : Nibble := w.extractLsb' 12 4

/-- `x` = `w[11:8]` (R61). -/
def fieldX (w : Word) : Nibble := w.extractLsb' 8 4

/-- `y` = `w[7:4]` (R61). -/
def fieldY (w : Word) : Nibble := w.extractLsb' 4 4

/-- `n` = `w[3:0]` (R61). -/
def fieldN (w : Word) : Nibble := w.extractLsb' 0 4

/-- `nn` = `w[7:0]` (R61). -/
def fieldNN (w : Word) : Byte := w.extractLsb' 0 8

/-- `nnn` = `w[11:0]` (R61). -/
def fieldNNN (w : Word) : Addr := w.extractLsb' 0 12

/-- Group 0: only the two words match, in all 16 bits (R64, D21). -/
def decodeGroup0 (w : Word) : Decoded :=
  if w = 0x00E0 then .instr .cls else if w = 0x00EE then .instr .ret else .unknownOpcode w

/-- Groups 5 and 9 require `n` = 0 (R64, D21). -/
def decodeLowNibbleZero (w : Word) (i : Instr) : Decoded :=
  if fieldN w = 0 then .instr i else .unknownOpcode w

/-- Group 8 dispatches on the selector `n` (R64). -/
def decodeGroup8 (w : Word) : Decoded :=
  match (fieldN w).toNat with
  | 0x0 => .instr (.ldReg (fieldX w) (fieldY w))
  | 0x1 => .instr (.orReg (fieldX w) (fieldY w))
  | 0x2 => .instr (.andReg (fieldX w) (fieldY w))
  | 0x3 => .instr (.xorReg (fieldX w) (fieldY w))
  | 0x4 => .instr (.addReg (fieldX w) (fieldY w))
  | 0x5 => .instr (.subReg (fieldX w) (fieldY w))
  | 0x6 => .instr (.shr (fieldX w) (fieldY w))
  | 0x7 => .instr (.subn (fieldX w) (fieldY w))
  | 0xE => .instr (.shl (fieldX w) (fieldY w))
  | _ => .unknownOpcode w

/-- Group E dispatches on the low byte (R64, C7). -/
def decodeGroupE (w : Word) : Decoded :=
  if fieldNN w = 0x9E then .instr (.skp (fieldX w))
  else if fieldNN w = 0xA1 then .instr (.sknp (fieldX w))
  else .unknownOpcode w

/-- Group F dispatches on the low byte (R64). -/
def decodeGroupF (w : Word) : Decoded :=
  if fieldNN w = 0x07 then .instr (.ldVxDT (fieldX w))
  else if fieldNN w = 0x0A then .instr (.ldVxK (fieldX w))
  else if fieldNN w = 0x15 then .instr (.ldDTVx (fieldX w))
  else if fieldNN w = 0x18 then .instr (.ldSTVx (fieldX w))
  else if fieldNN w = 0x1E then .instr (.addI (fieldX w))
  else if fieldNN w = 0x29 then .instr (.ldF (fieldX w))
  else if fieldNN w = 0x33 then .instr (.ldB (fieldX w))
  else if fieldNN w = 0x55 then .instr (.storeRegs (fieldX w))
  else if fieldNN w = 0x65 then .instr (.loadRegs (fieldX w))
  else .unknownOpcode w

/-- `decode(w)` of R64: a pure function of the word, dispatching on the top nibble. -/
def decode (w : Word) : Decoded :=
  match (fieldOp w).toNat with
  | 0x0 => decodeGroup0 w
  | 0x1 => .instr (.jp (fieldNNN w))
  | 0x2 => .instr (.call (fieldNNN w))
  | 0x3 => .instr (.seImm (fieldX w) (fieldNN w))
  | 0x4 => .instr (.sneImm (fieldX w) (fieldNN w))
  | 0x5 => decodeLowNibbleZero w (.seReg (fieldX w) (fieldY w))
  | 0x6 => .instr (.ldImm (fieldX w) (fieldNN w))
  | 0x7 => .instr (.addImm (fieldX w) (fieldNN w))
  | 0x8 => decodeGroup8 w
  | 0x9 => decodeLowNibbleZero w (.sneReg (fieldX w) (fieldY w))
  | 0xA => .instr (.ldI (fieldNNN w))
  | 0xB => .instr (.jpV0 (fieldNNN w))
  | 0xC => .instr (.rnd (fieldX w) (fieldNN w))
  | 0xD => .instr (.drw (fieldX w) (fieldY w) (fieldN w))
  | 0xE => decodeGroupE w
  | 0xF => decodeGroupF w
  | _ => .unknownOpcode w

/-- Two bytes as an instruction word, the first (lower address) the high byte (R46, R47). -/
def wordOfBytes (hi lo : Byte) : Word := hi ++ lo

/-- The decoder on a byte sequence: it reads the first two bytes, big-endian (R47, R60). -/
def decodeBytes : List Byte → BytesDecoded
  | hi :: lo :: _ => .word (decode (wordOfBytes hi lo))
  | _ => .truncated

/-- The two bytes of a word as memory holds them, high byte first (R47). -/
def bytesOfWord (w : Word) : List Byte := [w.extractLsb' 8 8, w.extractLsb' 0 8]

/-- The instruction the decoder reads from an instruction whose table bits are `w`. The table numbers bit 0 as the
least significant bit of the one 16-bit word, so the bits are that word; bits above `nbits` are 0. -/
def decodeTableWord (nbits w : Nat) : Option Instr :=
  match decodeBytes (bytesOfWord (BitVec.ofNat 16 (w % 2 ^ nbits))) with
  | .word (.instr i) => some i
  | .word (.unknownOpcode _) => none
  | .truncated => none

/-- Format `NNN`: `op || nnn` (R62). -/
def encNNN (op : Nibble) (nnn : Addr) : Word := op ++ nnn

/-- Format `XNN`: `op || x || nn` (R62). -/
def encXNN (op x : Nibble) (nn : Byte) : Word := (op ++ x : BitVec 8) ++ nn

/-- Formats `XY` (sub-opcode last) and `XYN`: `op || x || y || n` (R62). -/
def encXYN (op x y n : Nibble) : Word := (op ++ x : BitVec 8) ++ (y ++ n : BitVec 8)

/-- The word of an instruction, from the encoding line of its rule. -/
def encode : Instr → Word
  | .cls => 0x00E0
  | .ret => 0x00EE
  | .jp nnn => encNNN 0x1 nnn
  | .call nnn => encNNN 0x2 nnn
  | .seImm x nn => encXNN 0x3 x nn
  | .sneImm x nn => encXNN 0x4 x nn
  | .seReg x y => encXYN 0x5 x y 0x0
  | .ldImm x nn => encXNN 0x6 x nn
  | .addImm x nn => encXNN 0x7 x nn
  | .ldReg x y => encXYN 0x8 x y 0x0
  | .orReg x y => encXYN 0x8 x y 0x1
  | .andReg x y => encXYN 0x8 x y 0x2
  | .xorReg x y => encXYN 0x8 x y 0x3
  | .addReg x y => encXYN 0x8 x y 0x4
  | .subReg x y => encXYN 0x8 x y 0x5
  | .shr x y => encXYN 0x8 x y 0x6
  | .subn x y => encXYN 0x8 x y 0x7
  | .shl x y => encXYN 0x8 x y 0xE
  | .sneReg x y => encXYN 0x9 x y 0x0
  | .ldI nnn => encNNN 0xA nnn
  | .jpV0 nnn => encNNN 0xB nnn
  | .rnd x nn => encXNN 0xC x nn
  | .drw x y n => encXYN 0xD x y n
  | .skp x => encXNN 0xE x 0x9E
  | .sknp x => encXNN 0xE x 0xA1
  | .ldVxDT x => encXNN 0xF x 0x07
  | .ldVxK x => encXNN 0xF x 0x0A
  | .ldDTVx x => encXNN 0xF x 0x15
  | .ldSTVx x => encXNN 0xF x 0x18
  | .addI x => encXNN 0xF x 0x1E
  | .ldF x => encXNN 0xF x 0x29
  | .ldB x => encXNN 0xF x 0x33
  | .storeRegs x => encXNN 0xF x 0x55
  | .loadRegs x => encXNN 0xF x 0x65

end Sys2Proof
end

