-- ==== Sys2Proof/Machine/Params.lean ====
section
/-! DEFINITION. The defaults the spec gives the parameters it leaves OPEN (00_scope.md R5, 20_memory.md R50, D1, D2). -/

namespace Sys2Proof.Machine

/-- The first eight glyphs of the default `FONT` (R50). -/
def fontLow : List Byte :=
  [0xF0, 0x90, 0x90, 0x90, 0xF0] ++ [0x20, 0x60, 0x20, 0x20, 0x70] ++ [0xF0, 0x10, 0xF0, 0x80, 0xF0] ++
  [0xF0, 0x10, 0xF0, 0x10, 0xF0] ++ [0x90, 0x90, 0xF0, 0x10, 0x10] ++ [0xF0, 0x80, 0xF0, 0x10, 0xF0] ++
  [0xF0, 0x80, 0xF0, 0x90, 0xF0] ++ [0xF0, 0x10, 0x20, 0x40, 0x40]

/-- The last eight glyphs of the default `FONT` (R50). -/
def fontHigh : List Byte :=
  [0xF0, 0x90, 0xF0, 0x90, 0xF0] ++ [0xF0, 0x90, 0xF0, 0x10, 0xF0] ++ [0xF0, 0x90, 0xF0, 0x90, 0x90] ++
  [0xE0, 0x90, 0xE0, 0x90, 0xE0] ++ [0xF0, 0x80, 0x80, 0x80, 0xF0] ++ [0xE0, 0x90, 0x90, 0x90, 0xE0] ++
  [0xF0, 0x80, 0xF0, 0x80, 0xF0] ++ [0xF0, 0x80, 0xF0, 0x80, 0x80]

/-- The default `FONT`, 80 bytes. PRESUMED: the spec's table, from general knowledge (R50, D2, G2; log 6). -/
def defaultFont : Font := ⟨(fontLow ++ fontHigh).toArray, rfl⟩

/-- The defaults of the OPEN parameters. PRESUMED 64 and 32: the spec's, from general knowledge (R5, D1, G1; log 5). -/
def defaultParams : Params := ⟨64, 32, defaultFont⟩

end Sys2Proof.Machine
end

