-- ==== Sys2Proof/Machine/State.lean ====
section
/-! DEFINITION. The state of the machine (10_state.md R10), the ways a step can stop, and the state after reset (R33, R200). The last five fields are the model's own: they carry a tick's inputs and outputs (R29, R150, R159), since `step` is a function of the state alone. -/

namespace Sys2Proof.Machine

/-- The fatal errors (R170, R174). -/
inductive FatalError where
  | stackOverflow
  | stackUnderflow
  deriving DecidableEq, Repr

/-- The error kinds, fatal or not (R170). `loadIOFailure` is the collaborator's that reads the file: the core never
returns it (R52, R187, C9). -/
inductive ErrorKind where
  | unknownOpcode
  | fatal (e : FatalError)
  | loadTooLarge
  | loadIOFailure
  deriving DecidableEq, Repr

/-- The run state (R28). -/
inductive RunState where
  /-- Ticks execute. -/
  | running
  /-- The host's quit signal was consumed. -/
  | quit
  /-- A fatal error occurred. -/
  | halted (cause : FatalError)
  deriving DecidableEq, Repr

/-- An input event of a tick (R150); a key index is always 4 bits (R151). -/
inductive Event where
  | keyDown (k : Nibble)
  | keyUp (k : Nibble)
  | quit
  deriving DecidableEq, Repr

/-- The inputs of one tick (R29, R150): its event list in order, and the random byte where the host fixes it
(`none`: the draw is the free value of Config; log 2). -/
structure TickInput where
  events : List Event
  rand : Option Byte
  deriving DecidableEq, Repr

/-- The display buffer: `SCREEN_Y` rows of `SCREEN_X` pixels, `true` is on (R24). The two parameters (R5, D1) have their
home here; no operation changes them. -/
structure Display where
  /-- `SCREEN_X`. -/
  width : Nat
  /-- `SCREEN_Y`. -/
  height : Nat
  /-- `D`, row by row. -/
  rows : Vector (Vector Bool width) height
  deriving DecidableEq, Repr

/-- The outputs of a tick (R159): the beep (R157), the published frame (R158), the report of an unknown word as its
`pc` and the word (R66). -/
structure Outputs where
  beep : Bool
  frame : Option Display
  unknown : Option (Word × Word)
  deriving DecidableEq, Repr

/-- Memory as the list of bytes that differ from the reset contents, addresses strictly rising (R23, R40; log 12). -/
abbrev Memory := List Host.Cell

/-- The complete state (R10), and after it the model's own fields. -/
structure State where
  /-- `V[0]`..`V[15]`; `VF` = `V[15]` is the flag (R11, R12). -/
  v : Vector Byte 16
  /-- The index register `I`, 16 bits, unmasked (R14). -/
  i : Word
  /-- The program counter, 16 bits, unmasked (R15, R17). -/
  pc : Word
  /-- `stack[0]`..`stack[15]` (R18). -/
  stack : Vector Word 16
  /-- The stack pointer: the index of the top entry, `none` is EMPTY, the spec's -1 (R19; log 7). -/
  sp : Option (Fin 16)
  /-- The delay timer `DT` (R21). -/
  dt : Byte
  /-- The sound timer `ST` (R22). -/
  st : Byte
  /-- `Mem` (R23). -/
  mem : Memory
  /-- The parameter `FONT` of this machine, what reset seeds memory with (R5, R50, D2); changed by nothing. -/
  font : Font
  /-- `D`, with the parameters `SCREEN_X` and `SCREEN_Y` of this machine (R5, R24, D1). -/
  display : Display
  /-- The frame-dirty bit (R25). -/
  dirty : Bool
  /-- `keys[0]`..`keys[15]`, `true` is pressed (R26). -/
  keys : Vector Bool 16
  /-- The run state (R28). -/
  run : RunState
  /-- The model's own: the inputs of the ticks to come, the next tick's first (R29; log 1). -/
  inputs : List TickInput
  /-- The model's own: `new_key` of the tick in progress, `none` between ticks (R29, R152; log 3). -/
  newKey : Option Nibble
  /-- The model's own: the random byte the host fixed for the tick in progress, `none` between ticks (R92; logs 2, 3). -/
  draw : Option Byte
  /-- The model's own: the count the free random value is applied to, one more after every tick (R92; log 2). -/
  ticks : Nat
  /-- The model's own: the outputs of the last tick (R159; log 4). -/
  out : Outputs
  deriving DecidableEq, Repr

/-- Why a step stops with a fault. -/
inductive Fault where
  /-- Raised by `step` alone, by no instruction, when `run` is not `Running`: no tick is defined there and only reset
  applies (R150, R176, U13). Safe: the model stops where the machine has stopped (log 8). -/
  | notRunning (r : RunState)
  deriving DecidableEq, Repr

/-- Why an instruction is refused. -/
inductive Refusal where
  /-- Raised by an arm of `exec` whose instruction has no meaning yet; no arm of this model answers with it. Safe: the
  model stops where the hardware goes on. -/
  | notModelled (mnemonic : String)
  deriving DecidableEq, Repr

/-- The outcome of an instruction's meaning. -/
abbrev Result := Host.Outcome State Fault Refusal

/-- A tick with no output (R159). -/
abbrev Outputs.none : Outputs := ⟨false, Option.none, Option.none⟩

/-- The blank display of a size: every pixel off (R24, R121). -/
abbrev blankDisplay (width height : Nat) : Display :=
  ⟨width, height, Vector.replicate height (Vector.replicate width false)⟩

/-- The machine with the parameters `p` right after reset (R33, R200): memory lists nothing, so it reads as the zeros
and the font that reset leaves. The model's own fields hold no input and no output (logs 1 to 4). -/
def State.resetWith (p : Params) : State where
  v := Vector.replicate 16 0
  i := 0x0000
  pc := 0x0200
  stack := Vector.replicate 16 0
  sp := none
  dt := 0
  st := 0
  mem := []
  font := p.font
  display := blankDisplay p.screenX p.screenY
  dirty := false
  keys := Vector.replicate 16 false
  run := .running
  inputs := []
  newKey := none
  draw := none
  ticks := 0
  out := .none

/-- The machine right after reset, its OPEN parameters at the spec's defaults (R5, R33, R200; logs 5, 6). -/
def State.reset : State := State.resetWith defaultParams

end Sys2Proof.Machine
end

