-- ==== Sys2Proof/Machine/Ops.lean ====
section
/-! DEFINITION. The named operations over registers, memory, the call stack, the display and the run state, each from its primitive in 00_scope.md R7. Every read and write of a meaning goes through one of them. -/

namespace Sys2Proof.Machine

/-! ### Parameters -/

/-- The OPEN parameters this machine was created with (R5, D1, D2). -/
def State.params (s : State) : Params := ⟨s.display.width, s.display.height, s.font⟩

/-! ### General registers -/

/-- `VF`, the flag register, is `V[15]` (R7, R12). -/
abbrev vf : Nibble := 0xF

/-- `V[r]` (R7, R11): every 4-bit number names a register. -/
def readReg (s : State) (r : Nibble) : Byte := s.v[r.toNat]'r.isLt

/-- `V[r] <- b` (R7, R11). -/
def writeReg (r : Nibble) (b : Byte) (s : State) : State := { s with v := s.v.set r.toNat b r.isLt }

/-! ### Program counter -/

/-- `pc <- target`, all 16 bits, unmasked (R7, R17). -/
def setPc (target : Word) (s : State) : State := { s with pc := target }

/-- `pc <- (pc + 2) mod 65536` (R16, R17). -/
def advance (s : State) : State := setPc (s.pc + 2) s

/-- A skip: `pc + 4` if the condition holds, else `pc + 2`, mod 65536 (R16). -/
def skipIf (c : Bool) (s : State) : State := setPc (if c then s.pc + 4 else s.pc + 2) s

/-! ### Index register and timers -/

/-- `I <- w`, all 16 bits (R7, R14). -/
def setIndex (w : Word) (s : State) : State := { s with i := w }

/-- `DT <- b` (R21). -/
def setDelay (b : Byte) (s : State) : State := { s with dt := b }

/-- `ST <- b` (R22). -/
def setSound (b : Byte) (s : State) : State := { s with st := b }

/-! ### Memory -/

/-- What address `a` holds after reset: `FONT` in `[0x50, 0xA0)`, 0x00 elsewhere (R33, R41, R200). It is what an
address that memory does not list reads as (log 12). -/
def resetByte (font : Font) (a : Nat) : Byte :=
  if Config.fontBase ≤ a ∧ a < Config.fontEnd then font.toList.getD (a - Config.fontBase) 0 else 0

/-- The byte memory lists for address `a`, if it lists one. -/
def memFind (a : Nat) : Memory → Option Byte
  | [] => none
  | (a', b) :: m => if a' = a then some b else memFind a m

/-- `m` with the byte `b` listed at `a`, the order kept. -/
def memInsert (a : Nat) (b : Byte) : Memory → Memory
  | [] => [(a, b)]
  | (a', b') :: m =>
    if a < a' then (a, b) :: (a', b') :: m
    else if a = a' then (a, b) :: m
    else (a', b') :: memInsert a b m

/-- `m` without an entry for `a`. -/
def memErase (a : Nat) (m : Memory) : Memory := m.filter (fun c => c.1 ≠ a)

/-- `Mem[a]` (R43): total, no side effect. -/
def memRead (font : Font) (m : Memory) (a : Addr) : Byte := (memFind a.toNat m).getD (resetByte font a.toNat)

/-- `Mem[a] <- b` (R44): total, no address is read-only (R51). An entry equal to the reset contents is not listed. -/
def memWrite (font : Font) (a : Addr) (b : Byte) (m : Memory) : Memory :=
  if b = resetByte font a.toNat then memErase a.toNat m else memInsert a.toNat b m

/-- The canonical form of memory: addresses strictly rising, each inside the 4096 bytes (R40), and no entry equal to
what an unlisted address reads as. -/
abbrev Memory.wf (font : Font) (m : Memory) : Prop :=
  m.Pairwise (fun c d => c.1 < d.1) ∧ ∀ c ∈ m, c.1 < Config.memSize ∧ c.2 ≠ resetByte font c.1

/-- `MemRead(a, 1)` (R7, R43). -/
def readByte (s : State) (a : Addr) : Byte := memRead s.font s.mem a

/-- `MemWrite(a, 1, b)` (R7, R44). -/
def writeByte (a : Addr) (b : Byte) (s : State) : State := { s with mem := memWrite s.font a b s.mem }

/-- `(base + k) mod 4096`, on unbounded naturals and then reduced (R45, R46). With `base` = `I` it is `EA(k)`. -/
def wrapAddr (base : Word) (k : Nat) : Addr := BitVec.ofNat 12 (base.toNat + k)

/-- The bytes at `base + k`, `base + k + 1`, ... are written, in ascending order (R49). -/
def storeBytes (base : Word) : Nat → List Byte → State → State
  | _, [], s => s
  | k, b :: bs, s => storeBytes base (k + 1) bs (writeByte (wrapAddr base k) b s)

/-- `Fetch(pc)` (R46): the byte at `pc mod 4096` is the high byte, the byte at `(pc + 1) mod 4096` the low byte, each
address wrapped on its own. -/
def fetch (s : State) : Word := wordOfBytes (readByte s (wrapAddr s.pc 0)) (readByte s (wrapAddr s.pc 1))

/-! ### Call stack -/

/-- The next free stack entry, `sp + 1`; none when all 16 entries are live, `sp` = 15 (R19, R103). -/
def nextSlot : Option (Fin 16) → Option (Fin 16)
  | none => some 0
  | some j => if h : j.val + 1 < 16 then some ⟨j.val + 1, h⟩ else none

/-- `sp - 1`: the entry below, EMPTY below entry 0 (R19, R104). -/
def slotBelow (j : Fin 16) : Option (Fin 16) :=
  if j.val = 0 then none else some ⟨j.val - 1, by omega⟩

/-- `stack[j] <- w`, `sp <- j` (R103). -/
def pushAt (j : Fin 16) (w : Word) (s : State) : State := { s with stack := s.stack.set j.val w j.isLt, sp := some j }

/-- `sp <- p`; a popped entry keeps its value (R18, R104). -/
def setSp (p : Option (Fin 16)) (s : State) : State := { s with sp := p }

/-! ### Display -/

/-- `D[y mod SCREEN_Y][x mod SCREEN_X]` (R24, R122): each coordinate is wrapped on its own. A display without pixels,
which D1 excludes, reads as off. -/
def pixelAt (d : Display) (x y : Nat) : Bool :=
  if h : 0 < d.width ∧ 0 < d.height then
    (d.rows[y % d.height]'(Nat.mod_lt _ h.2))[x % d.width]'(Nat.mod_lt _ h.1)
  else false

/-- The pixel at the wrapped coordinates is toggled (R122). -/
def togglePixel (d : Display) (x y : Nat) : Display :=
  { d with
    rows :=
      if h : 0 < d.width ∧ 0 < d.height then
        d.rows.set (y % d.height)
          ((d.rows[y % d.height]'(Nat.mod_lt _ h.2)).set (x % d.width) (!pixelAt d x y) (Nat.mod_lt _ h.1))
          (Nat.mod_lt _ h.2)
      else d.rows }

/-- `D` is replaced and the frame is marked dirty, always (R25, R121, R122). -/
def setDisplay (d : Display) (s : State) : State := { s with display := d, dirty := true }

/-! ### Fatal errors and reports -/

/-- `raise <Error>` (R174), the one shared way a fatal error is taken: no other write, `run <- Halted(<Error>)`; `pc`
keeps the address of the raising instruction. There is no handler, no saved state and no return: only reset leaves
`Halted` (R176). -/
def raiseFatal (e : FatalError) (s : State) : State := { s with run := .halted e }

/-- `emit unknown_opcode(pc, w)` (R66, R172). -/
def reportUnknown (w : Word) (s : State) : State := { s with out := { s.out with unknown := some (s.pc, w) } }

/-- The codes of R170; 0 means no error. -/
def errorCode : Option ErrorKind → Nat
  | none => 0
  | some .unknownOpcode => 1
  | some (.fatal .stackOverflow) => 2
  | some (.fatal .stackUnderflow) => 3
  | some .loadTooLarge => 4
  | some .loadIOFailure => 5

/-- The error a run state records (R170, R178): a clean stop is no error. -/
def RunState.error : RunState → Option ErrorKind
  | .running => none
  | .quit => none
  | .halted c => some (.fatal c)

end Sys2Proof.Machine
end

