-- ==== Sys2Proof/Machine/Flags.lean ====
section
/-! DEFINITION. The 8-bit results and the flag of each arithmetic instruction, computed on unbounded naturals and narrowed (00_scope.md R6; 40_alu.md R81, R86 to R90, R93). -/

namespace Sys2Proof.Machine

/-- A flag as `VF` holds it: 0x01 or 0x00 (R12). -/
def flagByte (c : Bool) : Byte := if c then 1 else 0

/-- `(a + b) mod 256` (R81, R86). -/
def addByte (a b : Byte) : Byte := BitVec.ofNat 8 ((a.toNat + b.toNat) % 256)

/-- The carry out: 1 if the true sum exceeds 255 (R86, R93). -/
def carryFlag (a b : Byte) : Byte := flagByte (decide (a.toNat + b.toNat > 255))

/-- `(a + 256 - b) mod 256` (R87, R89). -/
def subByte (a b : Byte) : Byte := BitVec.ofNat 8 ((a.toNat + 256 - b.toNat) % 256)

/-- Not borrow: 1 if the minuend is greater than or equal to the subtrahend, unsigned (R87, R89, R93). -/
def notBorrowFlag (a b : Byte) : Byte := flagByte (decide (a.toNat ≥ b.toNat))

/-- `a >> 1`, logical: bit 7 becomes 0 (R88). -/
def shrByte (a : Byte) : Byte := a >>> 1

/-- `(a << 1) mod 256`: bit 0 becomes 0 (R90). -/
def shlByte (a : Byte) : Byte := a <<< 1

/-- The bit a right shift by one loses, `a[0]` (R88). -/
def shrFlag (a : Byte) : Byte := flagByte (a.getLsbD 0)

/-- The bit a left shift by one loses, `a[7]` (R90). -/
def shlFlag (a : Byte) : Byte := flagByte (a.getLsbD 7)

/-- A result and its flag: `V[x]` is written first, then `VF`, so with `x` = 15 the flag stays (R12, R94, D8). -/
def writeRegFlag (x : Nibble) (b flag : Byte) (s : State) : State := writeReg vf flag (writeReg x b s)

end Sys2Proof.Machine
end

