-- ==== Sys2Proof/Machine/Operands.lean ====
section
/-! DEFINITION. The operand forms of the instructions: registers, immediates, addresses, memory at `I` plus an index, key and digit numbers, the random byte (30_encoding.md R65, 20_memory.md R45, 40_alu.md R92). -/

namespace Sys2Proof.Machine

/-- `zext_16(nnn)`: an address operand widened with zeros (R7, R65). -/
def addrOperand (nnn : Addr) : Word := nnn.setWidth 16

/-- `zext_16(b)` (R7, R102, R142). -/
def zext16 (b : Byte) : Word := b.setWidth 16

/-- `zext_8(k)`: a key index as a byte, 0x00..0x0F (R7, R135). -/
def keyByte (k : Nibble) : Byte := k.setWidth 8

/-- `V[x][3:0]`: the key or digit a register names (R133, R137, R143). -/
def lowNibble (b : Byte) : Nibble := b.extractLsb' 0 4

/-- `keys[k]` (R7, R26). -/
def keyPressed (s : State) (k : Nibble) : Bool := s.keys[k.toNat]'k.isLt

/-- `EA(k)` = `(I + k) mod 4096` (R45). -/
def dataAddr (s : State) (k : Nat) : Addr := wrapAddr s.i k

/-- The address of the glyph of digit `d`: 0x0050 + 5 * d (R50, R143). -/
def glyphAddr (d : Nibble) : Word := BitVec.ofNat 16 (Config.fontBase + Config.glyphBytes * d.toNat)

/-- The decimal digits of a byte: hundreds, tens, ones, each a whole byte (R144). -/
def bcdDigits (b : Byte) : List Byte :=
  [BitVec.ofNat 8 (b.toNat / 100), BitVec.ofNat 8 (b.toNat / 10 % 10), BitVec.ofNat 8 (b.toNat % 10)]

/-- `V[0]`..`V[x]`, ascending (R145). -/
def regsUpTo (s : State) (x : Nibble) : List Byte :=
  (List.range (x.toNat + 1)).map (fun k => readReg s (BitVec.ofNat 4 k))

/-- The `n` bytes at `EA(0)`..`EA(n-1)` (R122). -/
def bytesAtIndex (s : State) (n : Nat) : List Byte := (List.range n).map (fun k => readByte s (dataAddr s k))

/-- `V[k]`, `V[k+1]`, ... are loaded with the given bytes, ascending (R146). -/
def loadRegsFrom : Nat → List Byte → State → State
  | _, [], s => s
  | k, b :: bs, s => loadRegsFrom (k + 1) bs (writeReg (BitVec.ofNat 4 k) b s)

/-- `Rand()`: the byte the host fixed for this tick, else the free value of Config (R92, D14; log 2). -/
def randByte (s : State) : Byte := s.draw.getD (Config.rand s.ticks)

end Sys2Proof.Machine
end

