-- ==== Sys2Proof/Machine/Alu.lean ====
section
/-! DEFINITION. The register and arithmetic family (40_alu.md R80 to R91): every source is read before any write (R94), no instruction of the family can raise an error, all advance `pc` by 2. -/

namespace Sys2Proof.Machine

/-- `V[x] <- b`, no flag, `pc + 2`: the common shape of R80 to R85 and R91. -/
def finishReg (x : Nibble) (b : Byte) (s : State) : Result := .next (advance (writeReg x b s))

/-- `V[x] <- b`, then `VF <- flag`, `pc + 2`: the common shape of R86 to R90. -/
def finishRegFlag (x : Nibble) (b flag : Byte) (s : State) : Result := .next (advance (writeRegFlag x b flag s))

/-- `6XNN` (R80). -/
def execLdImm (x : Nibble) (nn : Byte) (s : State) : Result := finishReg x nn s

/-- `7XNN`, no flag (R81). -/
def execAddImm (x : Nibble) (nn : Byte) (s : State) : Result := finishReg x (addByte (readReg s x) nn) s

/-- `8XY0` (R82). -/
def execLdReg (x y : Nibble) (s : State) : Result := finishReg x (readReg s y) s

/-- `8XY1` (R83). -/
def execOrReg (x y : Nibble) (s : State) : Result := finishReg x (readReg s x ||| readReg s y) s

/-- `8XY2` (R84). -/
def execAndReg (x y : Nibble) (s : State) : Result := finishReg x (readReg s x &&& readReg s y) s

/-- `8XY3` (R85). -/
def execXorReg (x y : Nibble) (s : State) : Result := finishReg x (readReg s x ^^^ readReg s y) s

/-- `8XY4` (R86). -/
def execAddReg (x y : Nibble) (s : State) : Result :=
  finishRegFlag x (addByte (readReg s x) (readReg s y)) (carryFlag (readReg s x) (readReg s y)) s

/-- `8XY5` (R87). -/
def execSubReg (x y : Nibble) (s : State) : Result :=
  finishRegFlag x (subByte (readReg s x) (readReg s y)) (notBorrowFlag (readReg s x) (readReg s y)) s

/-- `8XY6`: `V[x]` is shifted in place; `y` is encoded and not used (R88). -/
def execShr (x _y : Nibble) (s : State) : Result :=
  finishRegFlag x (shrByte (readReg s x)) (shrFlag (readReg s x)) s

/-- `8XY7`: the operands of `8XY5` exchanged (R89). -/
def execSubn (x y : Nibble) (s : State) : Result :=
  finishRegFlag x (subByte (readReg s y) (readReg s x)) (notBorrowFlag (readReg s y) (readReg s x)) s

/-- `8XYE`: `V[x]` is shifted in place; `y` is encoded and not used (R90). -/
def execShl (x _y : Nibble) (s : State) : Result :=
  finishRegFlag x (shlByte (readReg s x)) (shlFlag (readReg s x)) s

/-- `CXNN` (R91, R92). -/
def execRnd (x : Nibble) (nn : Byte) (s : State) : Result := finishReg x (randByte s &&& nn) s

end Sys2Proof.Machine
end

