-- ==== Sys2Proof/Machine/ControlFlow.lean ====
section
/-! DEFINITION. The control flow family (41_control_flow.md R100 to R108). No delay slot; a target is used as it stands (R100). `CALL` and `RET` are the only instructions that can raise a fatal error (R170). -/

namespace Sys2Proof.Machine

/-- `1NNN` (R101). -/
def execJp (nnn : Addr) (s : State) : Result := .next (setPc (addrOperand nnn) s)

/-- `BNNN`: always `V[0]`; the sum keeps 16 bits (R102). -/
def execJpV0 (nnn : Addr) (s : State) : Result := .next (setPc (addrOperand nnn + zext16 (readReg s 0)) s)

/-- `2NNN`: push `pc + 2` and jump; with 16 live entries `StackOverflow`, and nothing else changes (R103, R173). -/
def execCall (nnn : Addr) (s : State) : Result :=
  match nextSlot s.sp with
  | none => .next (raiseFatal .stackOverflow s)
  | some j => .next (setPc (addrOperand nnn) (pushAt j (s.pc + 2) s))

/-- `00EE`: pop to `pc`; with no live entry `StackUnderflow`, and nothing else changes (R104, R175). -/
def execRet (s : State) : Result :=
  match s.sp with
  | none => .next (raiseFatal .stackUnderflow s)
  | some j => .next (setSp (slotBelow j) (setPc (s.stack[j.val]'j.isLt) s))

/-- `3XNN` (R105). -/
def execSeImm (x : Nibble) (nn : Byte) (s : State) : Result := .next (skipIf (readReg s x == nn) s)

/-- `4XNN` (R106). -/
def execSneImm (x : Nibble) (nn : Byte) (s : State) : Result := .next (skipIf (readReg s x != nn) s)

/-- `5XY0` (R107). -/
def execSeReg (x y : Nibble) (s : State) : Result := .next (skipIf (readReg s x == readReg s y) s)

/-- `9XY0` (R108). -/
def execSneReg (x y : Nibble) (s : State) : Result := .next (skipIf (readReg s x != readReg s y) s)

end Sys2Proof.Machine
end

