-- ==== Sys2Proof/Machine/Display.lean ====
section
/-! DEFINITION. The display family and the sprite-drawing engine (42_display.md R120 to R122). -/

namespace Sys2Proof.Machine

/-- `00E0`: every pixel off, the frame dirty even if it was already blank (R121). -/
def execCls (s : State) : Result := .next (advance (setDisplay (blankDisplay s.display.width s.display.height) s))

/-- One sprite bit at the wrapped coordinates: a 1 bit toggles its pixel and hits if the pixel was on, a 0 bit does
nothing (R122). -/
def drawBit (x y : Nat) (bit : Bool) (c : Display × Bool) : Display × Bool :=
  if bit then (togglePixel c.1 x y, c.2 || pixelAt c.1 x y) else c

/-- Columns `col`, `col + 1`, ... of one sprite row; bit `7 - col` of the byte is column `col` (R122, D3). -/
def drawCols (x0 y : Nat) (b : Byte) : List Nat → Display × Bool → Display × Bool
  | [], c => c
  | col :: cols, c => drawCols x0 y b cols (drawBit (x0 + col) y (b.getLsbD (7 - col)) c)

/-- The sprite rows `row`, `row + 1`, ..., one byte each, columns ascending within a row (R122, R123). -/
def drawRows (x0 y0 : Nat) : Nat → List Byte → Display × Bool → Display × Bool
  | _, [], c => c
  | row, b :: bs, c => drawRows x0 y0 (row + 1) bs (drawCols x0 (y0 + row) b (List.range 8) c)

/-- The whole draw: the new display and whether any pixel went from on to off (R122). -/
def drawSprite (d : Display) (x0 y0 : Byte) (sprite : List Byte) : Display × Bool :=
  drawRows x0.toNat y0.toNat 0 sprite (d, false)

/-- `DXYN`: the coordinates are read before `VF` is written; `VF` is the collision, the frame is dirty always; `I` and
memory are not changed (R122). -/
def execDrw (x y n : Nibble) (s : State) : Result :=
  let drawn := drawSprite s.display (readReg s x) (readReg s y) (bytesAtIndex s n.toNat)
  .next (advance (setDisplay drawn.1 (writeReg vf (flagByte drawn.2) s)))

end Sys2Proof.Machine
end

