-- ==== Sys2Proof/Machine/IndexMemory.lean ====
section
/-! DEFINITION. The index register and memory family (44_index_memory.md R140 to R146): one addressing mode, `EA(k)`; no load or store changes `I`; no instruction of the family writes `VF` as a flag or raises an error. -/

namespace Sys2Proof.Machine

/-- `ANNN` (R141). -/
def execLdI (nnn : Addr) (s : State) : Result := .next (advance (setIndex (addrOperand nnn) s))

/-- `FX1E`: 16-bit wrap, `VF` not written (R142). -/
def execAddI (x : Nibble) (s : State) : Result := .next (advance (setIndex (s.i + zext16 (readReg s x)) s))

/-- `FX29`: the low nibble is the digit (R143). -/
def execLdF (x : Nibble) (s : State) : Result :=
  .next (advance (setIndex (glyphAddr (lowNibble (readReg s x))) s))

/-- `FX33`: hundreds at `EA(0)`, tens at `EA(1)`, ones at `EA(2)` (R144). -/
def execLdB (x : Nibble) (s : State) : Result :=
  .next (advance (storeBytes s.i 0 (bcdDigits (readReg s x)) s))

/-- `FX55`: `V[0]`..`V[x]` to `EA(0)`..`EA(x)` (R145). -/
def execStoreRegs (x : Nibble) (s : State) : Result :=
  .next (advance (storeBytes s.i 0 (regsUpTo s x) s))

/-- `FX65`: `EA(0)`..`EA(x)` to `V[0]`..`V[x]` (R146). -/
def execLoadRegs (x : Nibble) (s : State) : Result :=
  .next (advance (loadRegsFrom 0 (bytesAtIndex s (x.toNat + 1)) s))

end Sys2Proof.Machine
end

