-- ==== Sys2Proof/Machine/TimersKeypad.lean ====
section
/-! DEFINITION. The timer and keypad family (43_timers_keypad.md R130 to R137). The decrement of the timers is the tick's, in Machine/Tick.lean. -/

namespace Sys2Proof.Machine

/-- `FX07`: reads `DT` before this tick's decrement (R130, R136). -/
def execLdVxDT (x : Nibble) (s : State) : Result := .next (advance (writeReg x s.dt s))

/-- `FX15` (R131). -/
def execLdDTVx (x : Nibble) (s : State) : Result := .next (advance (setDelay (readReg s x) s))

/-- `FX18`: the write itself never beeps (R132). -/
def execLdSTVx (x : Nibble) (s : State) : Result := .next (advance (setSound (readReg s x) s))

/-- `EX9E`: the level of the key named by the low nibble (R133, R137). -/
def execSkp (x : Nibble) (s : State) : Result := .next (skipIf (keyPressed s (lowNibble (readReg s x))) s)

/-- `EXA1` (R134, R137). -/
def execSknp (x : Nibble) (s : State) : Result := .next (skipIf (!keyPressed s (lowNibble (readReg s x))) s)

/-- `FX0A`: with no press in this tick's input phase nothing changes, `pc` included, so the same instruction is fetched
again; with one, its key index goes to `V[x]` (R135, R163). -/
def execLdVxK (x : Nibble) (s : State) : Result :=
  match s.newKey with
  | none => .next s
  | some k => .next (advance (writeReg x (keyByte k) s))

end Sys2Proof.Machine
end

