-- ==== Sys2Proof/Machine/Tick.lean ====
section
/-! DEFINITION. The phases of the tick around the instruction (45_cycle_loop.md R150 to R159): input, the skip of an unknown word, timers, publish, and the ends of a tick. Step.lean only puts them in order. -/

namespace Sys2Proof.Machine

/-- The input of a tick for which the host supplied nothing: no event (R151: "The list may be empty"), and the free
random value. DESIGN CHOICE (log 1). -/
def idleInput : TickInput := ⟨[], none⟩

/-- The inputs of the next tick (R150). -/
def nextInput (s : State) : TickInput := s.inputs.headD idleInput

/-- The key-press transition rule: the first `KeyDown` of the tick that finds its key up is `new_key` (R151, R152). -/
def noteKeyDown (k : Nibble) (s : State) : Option Nibble :=
  if (s.keys[k.toNat]'k.isLt) = false ∧ s.newKey = none then some k else s.newKey

/-- `keys[k] <- p` (R27, R151). -/
def setKey (k : Nibble) (p : Bool) (s : State) : State := { s with keys := s.keys.set k.toNat p k.isLt }

/-- The events are consumed in list order; `Quit` stops the tick there, so the events after it are not consumed (R151). -/
def consumeEvents : List Event → State → State
  | [], s => s
  | .keyDown k :: es, s => consumeEvents es (setKey k true { s with newKey := noteKeyDown k s })
  | .keyUp k :: es, s => consumeEvents es (setKey k false s)
  | .quit :: _, s => { s with run := .quit }

/-- A tick begins: the outputs are none yet, `new_key` is none, the tick takes its inputs (R150, R151). -/
def beginTick (s : State) : State :=
  { s with out := Outputs.none, newKey := none, draw := (nextInput s).rand, inputs := s.inputs.tail }

/-- The input phase (R151). -/
def inputPhase (s : State) : State := consumeEvents (nextInput s).events (beginTick s)

/-- The execute phase of an unknown word: reported and skipped, nothing else (R66, R172). -/
def execUnknown (w : Word) (s : State) : State := advance (reportUnknown w s)

/-- A timer counts down to 0 and stays there (R21, R156). -/
def decTimer (b : Byte) : Byte := if b.toNat > 0 then b - 1 else b

/-- The timer phase; the beep fires when it finds `ST` = 1 (R156, R157). -/
def timerPhase (s : State) : State :=
  { s with dt := decTimer s.dt, st := decTimer s.st, out := { s.out with beep := decide (s.st.toNat = 1) } }

/-- The publish phase: a dirty frame is emitted as a copy and the mark cleared (R158). -/
def publishPhase (s : State) : State :=
  if s.dirty then { s with dirty := false, out := { s.out with frame := some s.display } } else s

/-- What every tick ends with: its inputs do not persist (R29), the tick is counted (log 2, log 3). -/
def endTick (s : State) : State := { s with newKey := none, draw := none, ticks := s.ticks + 1 }

/-- After the execute phase: timers and publish, unless a fatal error ended the tick early (R150, R155, R174). -/
def finishTick (s : State) : State :=
  match s.run with
  | .running => endTick (publishPhase (timerPhase s))
  | .quit => endTick s
  | .halted _ => endTick s

end Sys2Proof.Machine
end

