-- ==== Sys2Proof/Machine/HostOps.lean ====
section
/-! DEFINITION. What the host does to the machine between ticks (45_cycle_loop.md R164): reset it, load a program (20_memory.md R52, 70_reset_and_hazards.md R200 to R202). They are no steps of the machine: the step is the tick. -/

namespace Sys2Proof.Machine

/-- Reset of a machine in any run state: the full effect of R200, the program wiped, no output (R200, R201, D29). The
parameters are those the machine was created with (R5). The
inputs the host has yet to give and the tick count are the model's own and go on (log 11). -/
def resetMachine (s : State) : State := { State.resetWith s.params with inputs := s.inputs, ticks := s.ticks }

/-- `loadProgram(bytes)`: more than 3584 bytes is `LoadError::TooLarge` and nothing is written; otherwise the bytes stand
verbatim from 0x200 (R52). `IOFailure` is the collaborator's and never returned (R52, R187). -/
def loadProgram (bytes : List Byte) (s : State) : Except ErrorKind State :=
  if bytes.length > Config.progMax then .error .loadTooLarge
  else .ok (storeBytes (BitVec.ofNat 16 Config.progBase) 0 bytes s)

/-- Boot: create with the parameters `p` and reset, then load; on a load error the machine never starts (R202). -/
def boot (p : Params) (bytes : List Byte) : Except ErrorKind State := loadProgram bytes (State.resetWith p)

end Sys2Proof.Machine
end

