-- ==== Sys2Proof/Machine/Step.lean ====
section
/-! DEFINITION. The step of the machine is the tick (45_cycle_loop.md R150): input, fetch, decode and execute, timers, publish. -/

namespace Sys2Proof.Machine

/-- The execute phase of what the decoder answered (R154). -/
def execDecoded (d : Decoded) (s : State) : Host.Outcome State Fault Refusal :=
  match d with
  | .instr i => exec i s
  | .unknownOpcode w => .next (execUnknown w s)

/-- The tick after its input phase left `run` = `Running`: fetch, decode, execute, and what follows (R153 to R158). -/
def tickAfterInput (s : State) : Host.Outcome State Fault Refusal :=
  match execDecoded (decode (fetch s)) s with
  | .next t => .next (finishTick t)
  | .fault r => .fault r
  | .refused r => .refused r

/-- One tick (R150): defined only when `run` = `Running`; a `Quit` event ends it before the fetch (R151, R155). -/
def step (s : State) : Host.Outcome State Fault Refusal :=
  match s.run with
  | .running =>
    match (inputPhase s).run with
    | .running => tickAfterInput (inputPhase s)
    | .quit => .next (endTick (inputPhase s))
    | .halted _ => .next (endTick (inputPhase s))
  | .quit => .fault (.notRunning .quit)
  | .halted c => .fault (.notRunning (.halted c))

/-- `s` with the word `w` where the next tick fetches, the machine running, and the next tick's input with no event, so
that the very next step runs that word. It stands for the host's load (R52; log 10). -/
def State.withFetchWord (s : State) (nbits w : Nat) : State :=
  { storeBytes s.pc 0 (bytesOfWord (BitVec.ofNat 16 (w % 2 ^ nbits))) s with
    run := .running, inputs := idleInput :: s.inputs }

end Sys2Proof.Machine
end

