-- ==== Sys2Proof/Safety.lean ====
section
/-! DEFINITION. The terms claims are stated in: what an instruction may touch (its frame), the tables of 10_state.md R12, R13, R16, the invariant of the machine between ticks, and the software obligations of 70_reset_and_hazards.md R208. -/

namespace Sys2Proof.Safety

open Sys2Proof.Machine

/-- What an instruction is allowed to change besides `pc`. -/
structure Footprint where
  regs : List Nibble := []
  mem : List Addr := []
  index : Bool := false
  stack : Bool := false
  delay : Bool := false
  sound : Bool := false
  display : Bool := false
  run : Bool := false
  deriving DecidableEq, Repr

/-- From `s` to `t` nothing changed outside the footprint, `pc` excepted: every register, every byte of memory, `I`, the
call stack and its pointer, both timers, the display and its mark, the run state, the keys, the parameters (the size of
the display too where its pixels may change), and the model's own fields. -/
def Unchanged (fp : Footprint) (s t : State) : Prop :=
  (∀ r, r ∉ fp.regs → readReg t r = readReg s r) ∧
  (∀ a, a ∉ fp.mem → readByte t a = readByte s a) ∧
  (fp.index = false → t.i = s.i) ∧
  (fp.stack = false → t.stack = s.stack ∧ t.sp = s.sp) ∧
  (fp.delay = false → t.dt = s.dt) ∧
  (fp.sound = false → t.st = s.st) ∧
  (fp.display = false → t.display = s.display ∧ t.dirty = s.dirty) ∧
  (fp.run = false → t.run = s.run) ∧
  t.keys = s.keys ∧ t.params = s.params ∧
  t.newKey = s.newKey ∧ t.draw = s.draw ∧ t.inputs = s.inputs ∧ t.ticks = s.ticks ∧ t.out = s.out

/-- `pc` moved to the next instruction, mod 65536 (R16, R17). -/
def PcAdvanced (s t : State) : Prop := t.pc.toNat = (s.pc.toNat + 2) % 65536

/-- `pc` skipped one instruction if `c` holds and moved to the next one otherwise, mod 65536 (R16, R17). -/
def PcSkipped (c : Prop) (s t : State) : Prop :=
  (c → t.pc.toNat = (s.pc.toNat + 4) % 65536) ∧ (¬c → t.pc.toNat = (s.pc.toNat + 2) % 65536)

/-- The number of live call stack entries, `sp + 1` (R19). -/
def depth : Option (Fin 16) → Nat
  | none => 0
  | some j => j.val + 1

/-- The registers an instruction may write, its flag included (R12, R13). -/
def regsWritten : Instr → List Nibble
  | .cls | .ret | .jp _ | .call _ | .jpV0 _ | .ldI _ => []
  | .seImm _ _ | .sneImm _ _ | .seReg _ _ | .sneReg _ _ | .skp _ | .sknp _ => []
  | .ldImm x _ | .addImm x _ | .rnd x _ => [x]
  | .ldReg x _ | .orReg x _ | .andReg x _ | .xorReg x _ => [x]
  | .addReg x _ | .subReg x _ | .shr x _ | .subn x _ | .shl x _ => [x, vf]
  | .drw _ _ _ => [vf]
  | .ldVxDT x | .ldVxK x => [x]
  | .ldDTVx _ | .ldSTVx _ | .addI _ | .ldF _ | .ldB _ | .storeRegs _ => []
  | .loadRegs x => (List.range (x.toNat + 1)).map (BitVec.ofNat 4)

/-- The six instructions that write `VF` as a flag (R12). -/
def writesFlag : Instr → Bool
  | .addReg _ _ | .subReg _ _ | .shr _ _ | .subn _ _ | .shl _ _ | .drw _ _ _ => true
  | .cls | .ret | .jp _ | .call _ | .jpV0 _ | .ldI _ => false
  | .seImm _ _ | .sneImm _ _ | .seReg _ _ | .sneReg _ _ | .skp _ | .sknp _ => false
  | .ldImm _ _ | .addImm _ _ | .rnd _ _ => false
  | .ldReg _ _ | .orReg _ _ | .andReg _ _ | .xorReg _ _ => false
  | .ldVxDT _ | .ldVxK _ | .ldDTVx _ | .ldSTVx _ | .addI _ | .ldF _ | .ldB _ | .storeRegs _ | .loadRegs _ => false

/-- `(pc + d) mod 65536` (R16, R17). -/
def pcPlus (s : State) (d : Nat) : Nat := (s.pc.toNat + d) % 65536

/-- R16's table: the value `pc` has after the instruction. -/
def pcAfter (i : Instr) (s : State) : Nat :=
  match i with
  | .jp nnn => nnn.toNat
  | .jpV0 nnn => nnn.toNat + (readReg s 0).toNat
  | .call nnn => if depth s.sp = 16 then s.pc.toNat else nnn.toNat
  | .ret => match s.sp with
    | none => s.pc.toNat
    | some j => (s.stack[j.val]'j.isLt).toNat
  | .seImm x nn => if readReg s x = nn then pcPlus s 4 else pcPlus s 2
  | .sneImm x nn => if readReg s x ≠ nn then pcPlus s 4 else pcPlus s 2
  | .seReg x y => if readReg s x = readReg s y then pcPlus s 4 else pcPlus s 2
  | .sneReg x y => if readReg s x ≠ readReg s y then pcPlus s 4 else pcPlus s 2
  | .skp x => if keyPressed s (lowNibble (readReg s x)) = true then pcPlus s 4 else pcPlus s 2
  | .sknp x => if keyPressed s (lowNibble (readReg s x)) = false then pcPlus s 4 else pcPlus s 2
  | .ldVxK _ => if s.newKey = none then s.pc.toNat else pcPlus s 2
  | .cls | .ldI _ | .drw _ _ _ | .rnd _ _ | .ldImm _ _ | .addImm _ _ => pcPlus s 2
  | .ldReg _ _ | .orReg _ _ | .andReg _ _ | .xorReg _ _ => pcPlus s 2
  | .addReg _ _ | .subReg _ _ | .shr _ _ | .subn _ _ | .shl _ _ => pcPlus s 2
  | .ldVxDT _ | .ldDTVx _ | .ldSTVx _ | .addI _ | .ldF _ | .ldB _ | .storeRegs _ | .loadRegs _ => pcPlus s 2

/-- A 1 bit of the sprite of `DXYN` in `s` lands on the pixel `(px, py)`: some row and column of it wrap to the pixel
and the bit is 1 (R122). -/
def SpriteCovers (s : State) (x y n : Nibble) (px py : Nat) : Prop :=
  ∃ row < n.toNat, ∃ col < 8, (readByte s (dataAddr s row)).getLsbD (7 - col) = true ∧
    ((readReg s x).toNat + col) % s.display.width = px ∧ ((readReg s y).toNat + row) % s.display.height = py

/-- The pixels the 1 bits of the sprite of `DXYN` land on in `s`, in the visiting order of R122: rows ascending, columns
ascending within a row. On a display of less than 8 by 15 a pixel may stand in it more than once (R123). -/
def spritePixels (s : State) (x y n : Nibble) : List (Nat × Nat) :=
  (List.range n.toNat).flatMap fun row =>
    ((List.range 8).filter fun col => (readByte s (dataAddr s row)).getLsbD (7 - col)).map fun col =>
      (((readReg s x).toNat + col) % s.display.width, ((readReg s y).toNat + row) % s.display.height)

/-- The values 10_state.md R33 and 70_reset_and_hazards.md R200 list for a reset of the machine with parameters `p`. -/
def ResetValues (p : Params) (s : State) : Prop :=
  (∀ r, readReg s r = 0) ∧ s.i = 0x0000 ∧ s.pc = 0x0200 ∧ (∀ (j : Nat) (h : j < 16), s.stack[j]'h = 0) ∧ s.sp = none ∧
  s.dt = 0 ∧ s.st = 0 ∧
  (∀ a : Addr, a.toNat < 0x50 ∨ 0xA0 ≤ a.toNat → readByte s a = 0x00) ∧
  (∀ (j : Nat) (h : j < 80), readByte s (BitVec.ofNat 12 (0x50 + j)) = p.font[j]'h) ∧
  s.display.width = p.screenX ∧ s.display.height = p.screenY ∧
  (∀ px py, pixelAt s.display px py = false) ∧ s.dirty = false ∧ (∀ k, keyPressed s k = false) ∧ s.run = .running

/-- The invariant between ticks: memory is canonical; the display has a pixel (D1); no frame is pending (R158); no tick's input is left over (R29); a
stopped machine published nothing in its last tick (R155); the last frame is the display (R158); a beep left `ST` at 0
(R157); an unknown word was reported from the address before `pc` (R66, R172). -/
def BetweenTicks (s : State) : Prop :=
  Memory.wf s.font s.mem ∧ WellFormed.params s.params = true ∧ s.dirty = false ∧ s.newKey = none ∧ s.draw = none ∧
  (s.run ≠ .running → s.out = Outputs.none) ∧
  (∀ f, s.out.frame = some f → f = s.display) ∧
  (s.out.beep = true → s.st = 0) ∧
  (∀ p w, s.out.unknown = some (p, w) → s.pc = p + 2 ∧ decode w = .unknownOpcode w)

/-- The first software obligation of R208, its even part: `pc` and every live return address are even. -/
def EvenPc (s : State) : Prop :=
  s.pc.toNat % 2 = 0 ∧ ∀ (j : Nat) (h : j < 16), j < depth s.sp → (s.stack[j]'h).toNat % 2 = 0

/-- The program keeps its part of that obligation in this instruction: a jump or call target is even. -/
def EvenTarget (i : Instr) (s : State) : Prop :=
  match i with
  | .jp nnn => nnn.toNat % 2 = 0
  | .call nnn => nnn.toNat % 2 = 0
  | .jpV0 nnn => (nnn.toNat + (readReg s 0).toNat) % 2 = 0
  | _ => True

end Sys2Proof.Safety
end

