-- ==== Sys2Proof/Certificates/Slice0/Obligations.lean ====
section
/-! DEFINITION. The statements for the provers, from the numbered rules of spec/. Each names the rule it formalises; `Unchanged` is the frame of Safety.lean. -/

open Sys2Proof Sys2Proof.Machine Sys2Proof.Safety

/-! ## Encoding (30_encoding.md) -/

/-- Decoding the encoding of an instruction gives it back, from the word and from the two bytes memory holds: no bit of
any operand is dropped (R61 to R64). Every instruction is well-formed by its fields' types (log 15). -/
def Obligations.DecodeOfEncodeIsIdentity : Prop :=
  ∀ i : Instr, decode (encode i) = .instr i ∧ decodeBytes (bytesOfWord (encode i)) = .word (.instr i)

/-- A word that decodes to an instruction is the encoding of it: an instruction "ignores no bit" of its word (R61). -/
def Obligations.EncodeOfDecodedIsTheWord : Prop :=
  ∀ (w : Word) (i : Instr), decode w = .instr i → encode i = w

/-- The opcode map (R63): there are 34 rows; a word is the row's instruction if and only if `(w & mask) == match`; the
patterns are pairwise disjoint. -/
def Obligations.DecoderFollowsTheOpcodeMap : Prop :=
  opcodeRows.length = 34 ∧
  (∀ (w : Word) (row : OpcodeRow), row ∈ opcodeRows →
    (w &&& row.mask = row.bits ↔ ∃ i, decode w = .instr i ∧ i.pattern = row.pattern)) ∧
  (∀ (w : Word) (i : Instr), decode w = .instr i → ∃ row ∈ opcodeRows, row.pattern = i.pattern) ∧
  opcodeRows.Pairwise (fun r q => ∀ w : Word, ¬(w &&& r.mask = r.bits ∧ w &&& q.mask = q.bits))

/-- Which words are unknown, group by group (R66's table), and the rejection names the word itself (R64). That the match
is exact is the spec's decision D21. -/
def Obligations.UnknownWordsAreTheListedOnes : Prop :=
  (∀ w u : Word, decode w = .unknownOpcode u → u = w) ∧
  ∀ w : Word, decode w = .unknownOpcode w ↔
    (fieldOp w = 0x0 ∧ w ≠ 0x00E0 ∧ w ≠ 0x00EE) ∨ (fieldOp w = 0x5 ∧ fieldN w ≠ 0) ∨
    (fieldOp w = 0x8 ∧ fieldN w ∈ [0x8, 0x9, 0xA, 0xB, 0xC, 0xD, 0xF]) ∨ (fieldOp w = 0x9 ∧ fieldN w ≠ 0) ∨
    (fieldOp w = 0xE ∧ fieldNN w ∉ [0x9E, 0xA1]) ∨
    (fieldOp w = 0xF ∧ fieldNN w ∉ [0x07, 0x0A, 0x15, 0x18, 0x1E, 0x29, 0x33, 0x55, 0x65])

/-- A few words read bit by bit from the encoding lines of their rules, one per family, and two unknown words (exact by
the spec's decision D21). -/
def Obligations.SampleWordsDecode : Prop :=
  decode 0x6A42 = .instr (.ldImm 0xA 0x42) ∧ decode 0x8124 = .instr (.addReg 0x1 0x2) ∧
  decode 0x2ABC = .instr (.call 0xABC) ∧ decode 0xD125 = .instr (.drw 0x1 0x2 0x5) ∧
  decode 0xE19E = .instr (.skp 0x1) ∧ decode 0xF30A = .instr (.ldVxK 0x3) ∧
  decode 0xF255 = .instr (.storeRegs 0x2) ∧ decode 0x01E0 = .unknownOpcode 0x01E0 ∧
  decode 0x5AB1 = .unknownOpcode 0x5AB1

/-! ## The tick (45_cycle_loop.md) -/

/-- When the machine runs, no `Quit` cut the input phase short and the two bytes at `pc` decode to the instruction `i`,
the step is `exec i` on the state after the input phase, then the timer and publish phases if it still runs, and the end
of the tick (R150, R153, R154, R155; the order of the phases is the spec's decision D15). -/
def Obligations.StepRunsTheDecodedInstruction : Prop :=
  ∀ (s : State) (i : Instr), s.run = .running → (inputPhase s).run = .running →
    decodeBytes [readByte (inputPhase s) (wrapAddr s.pc 0), readByte (inputPhase s) (wrapAddr s.pc 1)] = .word (.instr i) →
    ∃ t, exec i (inputPhase s) = .next t ∧ step s = .next (finishTick t) ∧
      (t.run = .running → finishTick t = endTick (publishPhase (timerPhase t))) ∧
      (t.run ≠ .running → finishTick t = endTick t)

/-- A tick on an unknown word (R66, R172): it is reported with its address (the report's content is the spec's decision
D27), `pc` advances by 2, the timer and publish phases run, and nothing else changes from the state the input phase
left. -/
def Obligations.UnknownWordIsReportedAndSkipped : Prop :=
  ∀ (s : State) (w : Word), s.run = .running → (inputPhase s).run = .running →
    decode (fetch (inputPhase s)) = .unknownOpcode w →
    ∃ t, step s = .next t ∧ t.out.unknown = some (s.pc, w) ∧ PcAdvanced s t ∧ t.run = .running ∧
      (∀ r, readReg t r = readReg s r) ∧ (∀ a, readByte t a = readByte s a) ∧ t.i = s.i ∧
      t.stack = s.stack ∧ t.sp = s.sp ∧ t.display = s.display ∧ t.keys = (inputPhase s).keys ∧
      t.dt.toNat = s.dt.toNat - 1 ∧ t.st.toNat = s.st.toNat - 1 ∧ t.out.beep = decide (s.st.toNat = 1) ∧
      t.dirty = false ∧ t.out.frame = if s.dirty then some s.display else none

/-- `Quit` in the event list (R151, R155, R177): the key events before it are applied, those after it are not, there is
no fetch, no execution, no timer decrement, no output, and the machine has quit (the spec's decision D18; that the
rest of the list is dropped is log 13). -/
def Obligations.QuitEndsTheTickBeforeTheFetch : Prop :=
  ∀ (s : State) (pre post : List Event) (r : Option Byte) (later : List TickInput),
    s.run = .running → s.inputs = ⟨pre ++ .quit :: post, r⟩ :: later → .quit ∉ pre →
    ∃ t, step s = .next t ∧ t.run = .quit ∧ t.pc = s.pc ∧ t.v = s.v ∧ t.i = s.i ∧ t.mem = s.mem ∧
      t.stack = s.stack ∧ t.sp = s.sp ∧ t.dt = s.dt ∧ t.st = s.st ∧ t.display = s.display ∧ t.dirty = s.dirty ∧
      t.keys = (consumeEvents pre (beginTick s)).keys ∧ t.out = Outputs.none ∧ t.inputs = later

/-- The keys after the input phase (R27, R151): the last event about a key gives its level, a key without an event keeps
it, and the events change no other state of the machine but `new_key`. -/
def Obligations.LastEventSetsTheKeyLevel : Prop :=
  ∀ (es : List Event) (s : State), .quit ∉ es →
    (∀ k, keyPressed (consumeEvents es s) k =
      match es.reverse.find? (fun e => e = .keyDown k ∨ e = .keyUp k) with
      | some (.keyDown _) => true
      | some (.keyUp _) => false
      | _ => keyPressed s k) ∧
    consumeEvents es s = { s with keys := (consumeEvents es s).keys, newKey := (consumeEvents es s).newKey }

/-- `new_key` (R152) is "the first key-press transition of this tick's input phase": the first `KeyDown` that found its
key up; none if there is no such event. That the first one wins is the spec's decision D13. -/
def Obligations.NewKeyIsTheFirstTransition : Prop :=
  ∀ (es : List Event) (s : State), s.newKey = none → .quit ∉ es →
    ∀ k, (consumeEvents es s).newKey = some k ↔
      ∃ pre post, es = pre ++ .keyDown k :: post ∧ keyPressed (consumeEvents pre s) k = false ∧
        ∀ pre' k' post', pre = pre' ++ .keyDown k' :: post' → keyPressed (consumeEvents pre' s) k' = true

/-- A tick is defined only when `run` = `Running` (R150), and then every state has a successor: no decoded word, operand
or address stops it (R162, R171). When the machine has quit or halted the model stops under its own name (log 8). -/
def Obligations.TickIsDefinedExactlyWhenRunning : Prop :=
  ∀ s : State, (s.run = .running → ∃ t, step s = .next t) ∧ (s.run ≠ .running → step s = .fault (.notRunning s.run))

/-- A run ends in exactly two ways (R161): a `Quit` event, or a stack fault of the two instructions that raise; otherwise
the next tick runs. -/
def Obligations.OnlyQuitOrStackFaultStopsTheMachine : Prop :=
  ∀ s t : State, step s = .next t →
    (t.run = .running ∧ ∃ u, step t = .next u) ∨
    (t.run = .quit ∧ .quit ∈ (nextInput s).events) ∨
    (t.run = .halted .stackOverflow ∧ depth s.sp = 16 ∧ ∃ nnn, decode (fetch (inputPhase s)) = .instr (.call nnn)) ∨
    (t.run = .halted .stackUnderflow ∧ depth s.sp = 0 ∧ decode (fetch (inputPhase s)) = .instr .ret)

/-- The timer phase (R156): in every tick that reaches it, whatever was executed, both timers go down by one from what the
execute phase left and stop at 0, and the beep fires exactly when `ST` was 1. -/
def Obligations.TimersCountDownOncePerTick : Prop :=
  ∀ s t u : State, step s = .next t → (inputPhase s).run = .running →
    execDecoded (decode (fetch (inputPhase s))) (inputPhase s) = .next u → u.run = .running →
    t.dt.toNat = u.dt.toNat - 1 ∧ t.st.toNat = u.st.toNat - 1 ∧ (t.out.beep = true ↔ u.st.toNat = 1)

/-- A frame is published in exactly the ticks that execute `00E0` or `DXYN` to completion; it is a copy of the display,
and no frame stays pending (R158; that publishing clears the mark is the spec's decision D20). The premise is the part of
`Safety.BetweenTicks` that says no frame is pending before. -/
def Obligations.FramePublishedExactlyByDisplayInstructions : Prop :=
  ∀ s t : State, s.dirty = false → step s = .next t →
    (t.out.frame.isSome = true ↔
      (inputPhase s).run = .running ∧ (decode (fetch (inputPhase s)) = .instr .cls ∨
        ∃ x y n, decode (fetch (inputPhase s)) = .instr (.drw x y n))) ∧
    (∀ f, t.out.frame = some f → f = t.display) ∧ t.dirty = false

/-- The headline invariant: every step keeps `Safety.BetweenTicks` (R28, R29, R66, R155, R157, R158). It speaks of the model's
own input and output fields too (logs 1 to 4, 12). -/
def Obligations.EveryStepKeepsInv : Prop :=
  ∀ s t : State, BetweenTicks s → step s = .next t → BetweenTicks t

/-- The invariant holds at reset, with the spec's default parameters and with any others it allows (D1, D2). -/
def Obligations.ResetMeetsInv : Prop :=
  BetweenTicks State.reset ∧ ∀ p : Params, WellFormed.params p = true → BetweenTicks (State.resetWith p)

/-- The OPEN parameters `SCREEN_X`, `SCREEN_Y` and `FONT` (R5, D1, D2) are fixed when the machine is created: no
instruction, no tick, no load and no reset changes them; a machine created with `p` has `p`, and `State.reset` has the
spec's defaults, 64 by 32 and the table of R50 (logs 5, 6). -/
def Obligations.ParametersNeverChange : Prop :=
  (∀ (i : Instr) (s t : State), exec i s = .next t → t.params = s.params) ∧
  (∀ s t : State, step s = .next t → t.params = s.params) ∧
  (∀ (bytes : List Byte) (s t : State), loadProgram bytes s = .ok t → t.params = s.params) ∧
  (∀ s : State, (resetMachine s).params = s.params) ∧ (∀ p : Params, (State.resetWith p).params = p) ∧
  State.reset.params = ⟨64, 32, defaultFont⟩

/-- Waiting (R135, R163): a tick on `FX0A` without a new press is a full tick in which the execute phase changes nothing;
the timers count down, `pc` stays (the spec's decision D13). -/
def Obligations.KeyWaitIsAFullTick : Prop :=
  ∀ (s : State) (x : Nibble), s.run = .running → s.dirty = false → (inputPhase s).run = .running →
    decode (fetch (inputPhase s)) = .instr (.ldVxK x) → (inputPhase s).newKey = none →
    ∃ t, step s = .next t ∧ t.pc = s.pc ∧ t.v = s.v ∧ t.mem = s.mem ∧ t.i = s.i ∧ t.stack = s.stack ∧ t.sp = s.sp ∧
      t.display = s.display ∧ t.run = .running ∧ t.keys = (inputPhase s).keys ∧
      t.dt.toNat = s.dt.toNat - 1 ∧ t.st.toNat = s.st.toNat - 1 ∧
      t.out = ⟨decide (s.st.toNat = 1), none, none⟩

/-! ## Reset, boot, memory (70_reset_and_hazards.md, 20_memory.md) -/

/-- Reset of a machine with any parameters leaves what 10_state.md and 70_reset_and_hazards.md list: the parameter's font
at 0x50, a blank display of the parameter's size. `dirty` and `run` are the spec's decision D20. `State.reset` is that
with the spec's default parameters (logs 5, 6). -/
def Obligations.ResetLeavesTheListedState : Prop :=
  (∀ p : Params, ResetValues p (State.resetWith p)) ∧ ResetValues defaultParams State.reset

/-- Reset in any run state has the full effect (the spec's decision D29): the result is the reset state of the machine's parameters but for the inputs the host has yet
to give and the tick count, which are the model's own (log 11). -/
def Obligations.ResetWipesAnyState : Prop :=
  ∀ s : State, { resetMachine s with inputs := [], ticks := 0 } = State.resetWith s.params ∧
    (resetMachine s).inputs = s.inputs ∧ (resetMachine s).ticks = s.ticks

/-- The loader (R52): a program of more than 3584 bytes is `TooLarge`; any other stands verbatim from 0x200, and nothing
else changes (the spec's decision D28). -/
def Obligations.LoaderCopiesTheProgramVerbatim : Prop :=
  ∀ (bytes : List Byte) (s : State),
    (3584 < bytes.length → loadProgram bytes s = .error .loadTooLarge) ∧
    (bytes.length ≤ 3584 → ∃ t, loadProgram bytes s = .ok t ∧
      (∀ (j : Nat) (h : j < bytes.length), readByte t (BitVec.ofNat 12 (0x200 + j)) = bytes[j]) ∧
      (∀ a : Addr, a.toNat < 0x200 ∨ 0x200 + bytes.length ≤ a.toNat → readByte t a = readByte s a) ∧
      t = { s with mem := t.mem })

/-- The fetch reads two bytes big-endian (R47), each address reduced mod 4096 on its own (R46, the spec's decision D6). -/
def Obligations.FetchIsBigEndianAndWraps : Prop :=
  ∀ s : State, (fetch s).toNat =
    256 * (readByte s (BitVec.ofNat 12 (s.pc.toNat % 4096))).toNat +
      (readByte s (BitVec.ofNat 12 ((s.pc.toNat + 1) % 4096))).toNat

/-- The data effective address `EA(k) = (I + k) mod 4096` (R45, the spec's decision D5). -/
def Obligations.DataAddressWraps : Prop :=
  ∀ (s : State) (k : Nat), (dataAddr s k).toNat = (s.i.toNat + k) % 4096

/-- Self-modifying code needs no fence (R49; the spec's decision D26): two neighbouring bytes stored by `FX55` are the word
fetched where `pc` points to the first, while every byte of memory reads as the store left it, whatever else has changed.
The stored range is the spec's decision D9, the wrap of the store's and the fetch's addresses D5 and D6. -/
def Obligations.StoredWordIsFetched : Prop :=
  ∀ (s t u : State) (x : Nibble) (k : Nat), exec (.storeRegs x) s = .next t → k + 1 ≤ x.toNat →
    (∀ a, readByte u a = readByte t a) → wrapAddr u.pc 0 = dataAddr s k →
    fetch u = wordOfBytes (readReg s (BitVec.ofNat 4 k)) (readReg s (BitVec.ofNat 4 (k + 1)))

/-! ## Rules over all instructions (10_state.md) -/

/-- Once a program runs, only `FX33` and `FX55` write memory (R42). -/
def Obligations.OnlyBcdAndDumpWriteMemory : Prop :=
  ∀ (i : Instr) (s t : State), exec i s = .next t → (∀ x, i ≠ .ldB x) → (∀ x, i ≠ .storeRegs x) →
    ∀ a, readByte t a = readByte s a

/-- The register table (R13): an instruction writes no register but those its row marks (the range of `FX65` is the
spec's decision D9). -/
def Obligations.RegistersWrittenAreThoseOfTheTable : Prop :=
  ∀ (i : Instr) (s t : State), exec i s = .next t → ∀ r, r ∉ regsWritten i → readReg t r = readReg s r

/-- The flag register (R12): the six flag instructions leave 0x00 or 0x01 in it, whatever their `x` (that the flag is
written last is the spec's decision D8), and any other instruction leaves it alone unless its destination reaches
register 15. -/
def Obligations.FlagWrittenByExactlySixInstructions : Prop :=
  ∀ (i : Instr) (s t : State), exec i s = .next t →
    (writesFlag i = true → readReg t vf = 0x00 ∨ readReg t vf = 0x01) ∧
    (writesFlag i = false → vf ∉ regsWritten i → readReg t vf = readReg s vf)

/-- R16's table: what `pc` is after every instruction, and after an unknown word. It rests on the spec's decisions D6 (mod
65536), D12 and D13 (keys), D16 (a stack fault) and D23 (`BNNN`) too. -/
def Obligations.ProgramCounterFollowsTheTable : Prop :=
  (∀ (i : Instr) (s t : State), exec i s = .next t → t.pc.toNat = pcAfter i s) ∧
  ∀ (w : Word) (s : State), (execUnknown w s).pc.toNat = pcPlus s 2

/-- R31's column "written by", for instructions: `I`, the stack pointer and the stack, the timers, the display and its
mark, and the run state are written by the listed instructions alone (the stack's contents are R18, the display is R24
and R120); no instruction writes the keys (R26) or the model's own fields. -/
def Obligations.ControlStateWrittenByListedInstructions : Prop :=
  ∀ (i : Instr) (s t : State), exec i s = .next t →
    ((∀ nnn, i ≠ .ldI nnn) → (∀ x, i ≠ .addI x) → (∀ x, i ≠ .ldF x) → t.i = s.i) ∧
    (i ≠ .ret → (∀ nnn, i ≠ .call nnn) → t.sp = s.sp ∧ t.stack = s.stack ∧ t.run = s.run) ∧
    ((∀ x, i ≠ .ldDTVx x) → t.dt = s.dt) ∧ ((∀ x, i ≠ .ldSTVx x) → t.st = s.st) ∧
    (i ≠ .cls → (∀ x y n, i ≠ .drw x y n) → t.display = s.display ∧ t.dirty = s.dirty) ∧
    t.keys = s.keys ∧ t.inputs = s.inputs ∧ t.newKey = s.newKey ∧ t.draw = s.draw ∧ t.ticks = s.ticks ∧ t.out = s.out

/-- The stack pointer (R20): `sp` changes by exactly +1 on a successful `2NNN`, by exactly -1 on a successful `00EE`, and by
nothing else in any tick; a `2NNN` with 16 live entries and a `00EE` with none change nothing and halt the machine. -/
def Obligations.StackPointerMovesByOneOrNot : Prop :=
  (∀ (nnn : Addr) (s t : State), exec (.call nnn) s = .next t →
    if depth s.sp = 16 then t = { s with run := .halted .stackOverflow } else depth t.sp = depth s.sp + 1) ∧
  (∀ s t : State, exec .ret s = .next t →
    if depth s.sp = 0 then t = { s with run := .halted .stackUnderflow } else depth t.sp + 1 = depth s.sp) ∧
  ∀ s t : State, step s = .next t → depth t.sp ≤ 16 ∧
    (t.sp = s.sp ∨
      ((∃ nnn, decode (fetch (inputPhase s)) = .instr (.call nnn)) ∧ depth t.sp = depth s.sp + 1) ∨
      (decode (fetch (inputPhase s)) = .instr .ret ∧ depth t.sp + 1 = depth s.sp))

/-- The first software obligation (R208, C3), its even part: while every jump and call target is even, `pc` and the live
return addresses stay even. -/
def Obligations.EvenProgramCounterIsKept : Prop :=
  ∀ (i : Instr) (s t : State), EvenPc s → EvenTarget i s → exec i s = .next t → EvenPc t

/-- The random draw is read by `CXNN` alone (R92) and `new_key` by `FX0A` alone (R152): any other instruction does the
same whatever they are (the spec's decisions D13 and D14; the draw is the free value of log 2). -/
def Obligations.TickInputsReadOnlyByTheirInstructions : Prop :=
  ∀ (i : Instr) (s t : State), exec i s = .next t →
    ((∀ x nn, i ≠ .rnd x nn) → ∀ (d : Option Byte) (n : Nat),
      exec i { s with draw := d, ticks := n } = .next { t with draw := d, ticks := n }) ∧
    ((∀ x, i ≠ .ldVxK x) → ∀ k : Option Nibble, exec i { s with newKey := k } = .next { t with newKey := k })

/-! ## Register and arithmetic family (40_alu.md) -/

/-- `6XNN` (R80). -/
def Obligations.LoadImmediateStoresNN : Prop :=
  ∀ (x : Nibble) (nn : Byte) (s : State), ∃ t, exec (.ldImm x nn) s = .next t ∧
    readReg t x = nn ∧ PcAdvanced s t ∧ Unchanged { regs := [x] } s t

/-- `7XNN` (R81): the sum mod 256, no flag. -/
def Obligations.AddImmediateWrapsWithoutFlag : Prop :=
  ∀ (x : Nibble) (nn : Byte) (s : State), ∃ t, exec (.addImm x nn) s = .next t ∧
    (readReg t x).toNat = ((readReg s x).toNat + nn.toNat) % 256 ∧ PcAdvanced s t ∧ Unchanged { regs := [x] } s t

/-- `8XY0` to `8XY3` (R82 to R85): copy, or, and, exclusive or, no flag. -/
def Obligations.CopyAndLogicWriteNoFlag : Prop :=
  ∀ (x y : Nibble) (s : State),
    (∃ t, exec (.ldReg x y) s = .next t ∧ readReg t x = readReg s y ∧ PcAdvanced s t ∧
      Unchanged { regs := [x] } s t) ∧
    (∃ t, exec (.orReg x y) s = .next t ∧
      (∀ b < 8, (readReg t x).getLsbD b = ((readReg s x).getLsbD b || (readReg s y).getLsbD b)) ∧
      PcAdvanced s t ∧ Unchanged { regs := [x] } s t) ∧
    (∃ t, exec (.andReg x y) s = .next t ∧
      (∀ b < 8, (readReg t x).getLsbD b = ((readReg s x).getLsbD b && (readReg s y).getLsbD b)) ∧
      PcAdvanced s t ∧ Unchanged { regs := [x] } s t) ∧
    (∃ t, exec (.xorReg x y) s = .next t ∧
      (∀ b < 8, (readReg t x).getLsbD b = ((readReg s x).getLsbD b ^^ (readReg s y).getLsbD b)) ∧
      PcAdvanced s t ∧ Unchanged { regs := [x] } s t)

/-- `8XY4` (R86): the sum mod 256 in `V[x]` and the carry in `VF`, on the old values; with `x` = 15 the carry
stays (the spec's decision D8). -/
def Obligations.AddRegistersSetsCarry : Prop :=
  ∀ (x y : Nibble) (s : State), ∃ t, exec (.addReg x y) s = .next t ∧
    (x ≠ vf → (readReg t x).toNat = ((readReg s x).toNat + (readReg s y).toNat) % 256) ∧
    readReg t vf = (if (readReg s x).toNat + (readReg s y).toNat > 255 then 0x01 else 0x00) ∧
    PcAdvanced s t ∧ Unchanged { regs := [x, vf] } s t

/-- `8XY5` and `8XY7` (R87, R89): the difference mod 256 and not-borrow, on the old values; with `x` = 15 the flag
stays (the spec's decision D8). -/
def Obligations.SubtractionsSetNotBorrow : Prop :=
  ∀ (x y : Nibble) (s : State),
    (∃ t, exec (.subReg x y) s = .next t ∧
      (x ≠ vf → (readReg t x).toNat = ((readReg s x).toNat + 256 - (readReg s y).toNat) % 256) ∧
      readReg t vf = (if (readReg s x).toNat ≥ (readReg s y).toNat then 0x01 else 0x00) ∧
      PcAdvanced s t ∧ Unchanged { regs := [x, vf] } s t) ∧
    (∃ t, exec (.subn x y) s = .next t ∧
      (x ≠ vf → (readReg t x).toNat = ((readReg s y).toNat + 256 - (readReg s x).toNat) % 256) ∧
      readReg t vf = (if (readReg s y).toNat ≥ (readReg s x).toNat then 0x01 else 0x00) ∧
      PcAdvanced s t ∧ Unchanged { regs := [x, vf] } s t)

/-- `8XY6` and `8XYE` (R88, R90): `V[x]` shifted by one in place, the lost bit in `VF`, the same for every `y`; with `x` =
15 the lost bit stays (the spec's decision D8). -/
def Obligations.ShiftsKeepTheLostBit : Prop :=
  ∀ (x y : Nibble) (s : State),
    (∃ t, exec (.shr x y) s = .next t ∧ (x ≠ vf → (readReg t x).toNat = (readReg s x).toNat / 2) ∧
      (readReg t vf).toNat = (readReg s x).toNat % 2 ∧ PcAdvanced s t ∧ Unchanged { regs := [x, vf] } s t) ∧
    (∃ t, exec (.shl x y) s = .next t ∧ (x ≠ vf → (readReg t x).toNat = 2 * (readReg s x).toNat % 256) ∧
      (readReg t vf).toNat = (readReg s x).toNat / 128 ∧ PcAdvanced s t ∧ Unchanged { regs := [x, vf] } s t)

/-- `CXNN` (R91): the masked draw, whatever the draw is (the free value of log 2); a bit outside the mask is 0. -/
def Obligations.RandomByteIsMasked : Prop :=
  ∀ (x : Nibble) (nn : Byte) (s : State), ∃ t, exec (.rnd x nn) s = .next t ∧
    readReg t x = randByte s &&& nn ∧ (∀ d, s.draw = some d → readReg t x = d &&& nn) ∧
    readReg t x &&& ~~~nn = 0 ∧ PcAdvanced s t ∧ Unchanged { regs := [x] } s t

/-! ## Control flow family (41_control_flow.md) -/

/-- `1NNN` (R101): the target as it stands. -/
def Obligations.JumpSetsThePlainTarget : Prop :=
  ∀ (nnn : Addr) (s : State), ∃ t, exec (.jp nnn) s = .next t ∧ t.pc.toNat = nnn.toNat ∧ Unchanged {} s t

/-- `BNNN` (R102): always `V[0]`; the sum is never reduced to 12 bits (the spec's decision D23). -/
def Obligations.IndexedJumpAddsRegisterZero : Prop :=
  ∀ (nnn : Addr) (s : State), ∃ t, exec (.jpV0 nnn) s = .next t ∧
    t.pc.toNat = nnn.toNat + (readReg s 0).toNat ∧ Unchanged {} s t

/-- `2NNN` (R103): with 16 live entries `StackOverflow`, nothing else changes and the tick ends at once; otherwise `pc + 2`
is pushed above the live entries and `pc` is the target. -/
def Obligations.CallPushesTheReturnAddress : Prop :=
  ∀ (nnn : Addr) (s : State),
    (depth s.sp = 16 → exec (.call nnn) s = .next { s with run := .halted .stackOverflow } ∧
      finishTick { s with run := .halted .stackOverflow } = endTick { s with run := .halted .stackOverflow }) ∧
    (depth s.sp < 16 → ∃ t, exec (.call nnn) s = .next t ∧ t.pc.toNat = nnn.toNat ∧
      depth t.sp = depth s.sp + 1 ∧ t.stack[depth s.sp]? = some (s.pc + 2) ∧
      (∀ (j : Nat), j ≠ depth s.sp → t.stack[j]? = s.stack[j]?) ∧ Unchanged { stack := true } s t)

/-- `00EE` (R104): with no live entry `StackUnderflow`, nothing else changes, whatever `stack[0]` holds, and the tick ends at
once; otherwise the top entry goes to `pc` and keeps its value in the stack. -/
def Obligations.ReturnPopsTheTopEntry : Prop :=
  ∀ s : State,
    (depth s.sp = 0 → exec .ret s = .next { s with run := .halted .stackUnderflow } ∧
      finishTick { s with run := .halted .stackUnderflow } = endTick { s with run := .halted .stackUnderflow }) ∧
    (∀ d, depth s.sp = d + 1 → ∃ t, exec .ret s = .next t ∧ s.stack[d]? = some t.pc ∧ depth t.sp = d ∧
      t.stack = s.stack ∧ Unchanged { stack := true } s t)

/-- `CALL` then `RET` returns to `call_pc + 2`, for any depth of at most 15 before the call (R109), whatever the subroutine
did to the rest of the state. -/
def Obligations.CallThenReturnComesBack : Prop :=
  ∀ (nnn : Addr) (s : State), depth s.sp ≤ 15 →
    ∃ t, exec (.call nnn) s = .next t ∧
      ∀ u : State, u.stack = t.stack → u.sp = t.sp →
        ∃ v, exec .ret u = .next v ∧ v.pc.toNat = (s.pc.toNat + 2) % 65536 ∧ v.sp = s.sp

/-- `3XNN`, `4XNN`, `5XY0`, `9XY0` (R105 to R108). -/
def Obligations.ComparisonsSkipOneInstruction : Prop :=
  ∀ (x y : Nibble) (nn : Byte) (s : State),
    (∃ t, exec (.seImm x nn) s = .next t ∧ PcSkipped (readReg s x = nn) s t ∧ Unchanged {} s t) ∧
    (∃ t, exec (.sneImm x nn) s = .next t ∧ PcSkipped (readReg s x ≠ nn) s t ∧ Unchanged {} s t) ∧
    (∃ t, exec (.seReg x y) s = .next t ∧ PcSkipped (readReg s x = readReg s y) s t ∧ Unchanged {} s t) ∧
    (∃ t, exec (.sneReg x y) s = .next t ∧ PcSkipped (readReg s x ≠ readReg s y) s t ∧ Unchanged {} s t)

/-- A stack fault as a whole tick (R155, R173, R174, R175): `run` records the cause, `pc` stays at the instruction,
nothing is pushed or popped, no timer moves, nothing is output, and no later tick runs (the state left is the spec's
decision D16; the stop of a halted machine is log 8). -/
def Obligations.StackFaultHaltsTheMachine : Prop :=
  ∀ (s : State) (e : FatalError), s.run = .running → (inputPhase s).run = .running →
    ((e = .stackOverflow ∧ depth s.sp = 16 ∧ ∃ nnn, decode (fetch (inputPhase s)) = .instr (.call nnn)) ∨
     (e = .stackUnderflow ∧ depth s.sp = 0 ∧ decode (fetch (inputPhase s)) = .instr .ret)) →
    ∃ t, step s = .next t ∧ t.run = .halted e ∧ t.pc = s.pc ∧ t.v = s.v ∧ t.i = s.i ∧ t.mem = s.mem ∧
      t.stack = s.stack ∧ t.sp = s.sp ∧ t.dt = s.dt ∧ t.st = s.st ∧ t.display = s.display ∧ t.dirty = s.dirty ∧
      t.keys = (inputPhase s).keys ∧ t.out = Outputs.none ∧ step t = .fault (.notRunning (.halted e))

/-! ## Display family (42_display.md) -/

/-- `00E0` (R121): every pixel off, the frame dirty in every case. -/
def Obligations.ClearTurnsEveryPixelOff : Prop :=
  ∀ s : State, ∃ t, exec .cls s = .next t ∧ (∀ px py, pixelAt t.display px py = false) ∧ t.dirty = true ∧
    PcAdvanced s t ∧ Unchanged { display := true } s t

/-- `DXYN` (R122) on a display of any size: a pixel is inverted once for every 1 bit of the sprite that lands on it, wrapped
on both axes; `VF` is 1 exactly when a bit found its pixel on, before the draw or, on a small display, by an earlier bit of
it; the frame is dirty. Which bit is leftmost is the spec's decision D3. -/
def Obligations.DrawTogglesOncePerSpriteBit : Prop :=
  ∀ (x y n : Nibble) (s : State), ∃ t, exec (.drw x y n) s = .next t ∧
    (∀ px < s.display.width, ∀ py < s.display.height, pixelAt t.display px py =
      (pixelAt s.display px py ^^ (spritePixels s x y n).count (px, py) % 2 == 1)) ∧
    ((∃ px < s.display.width, ∃ py < s.display.height, 1 ≤ (spritePixels s x y n).count (px, py) ∧
      (pixelAt s.display px py = true ∨ 2 ≤ (spritePixels s x y n).count (px, py))) → readReg t vf = 0x01) ∧
    ((¬∃ px < s.display.width, ∃ py < s.display.height, 1 ≤ (spritePixels s x y n).count (px, py) ∧
      (pixelAt s.display px py = true ∨ 2 ≤ (spritePixels s x y n).count (px, py))) → readReg t vf = 0x00) ∧
    t.dirty = true ∧ PcAdvanced s t ∧ Unchanged { regs := [vf], display := true } s t

/-- `DXYN` where no pixel is covered twice (R122, R123), as on the spec's default display and on any of at least 8 by 15:
a pixel is inverted exactly when a 1 bit of the sprite lands on it, and `VF` is 1 exactly when such a pixel was on. Which
bit is leftmost is the spec's decision D3. Smaller displays are `DrawTogglesOncePerSpriteBit`. -/
def Obligations.DrawInvertsTheCoveredPixels : Prop :=
  ∀ (x y n : Nibble) (s : State), 8 ≤ s.display.width → n.toNat ≤ s.display.height →
    ∃ t, exec (.drw x y n) s = .next t ∧
    (∀ px < s.display.width, ∀ py < s.display.height,
      (SpriteCovers s x y n px py → pixelAt t.display px py = !pixelAt s.display px py) ∧
      (¬SpriteCovers s x y n px py → pixelAt t.display px py = pixelAt s.display px py)) ∧
    ((∃ px < s.display.width, ∃ py < s.display.height, SpriteCovers s x y n px py ∧ pixelAt s.display px py = true) →
      readReg t vf = 0x01) ∧
    ((¬∃ px < s.display.width, ∃ py < s.display.height, SpriteCovers s x y n px py ∧ pixelAt s.display px py = true) →
      readReg t vf = 0x00) ∧
    t.dirty = true ∧ PcAdvanced s t ∧ Unchanged { regs := [vf], display := true } s t

/-- Drawing the same sprite at the same location twice in a row restores the display, whatever its size (S8, R122); on a
blank display the second draw sets `VF` to 1 if the sprite has a 1 bit. -/
def Obligations.DrawingTwiceRestoresTheDisplay : Prop :=
  ∀ (x y n : Nibble) (s t : State), x ≠ vf → y ≠ vf → exec (.drw x y n) s = .next t →
    ∃ u, exec (.drw x y n) t = .next u ∧ u.display = s.display ∧
      (s.display = blankDisplay s.display.width s.display.height →
        (∃ px < s.display.width, ∃ py < s.display.height, SpriteCovers s x y n px py) → readReg u vf = 0x01)

/-! ## Timer and keypad family (43_timers_keypad.md) -/

/-- `FX07`, `FX15`, `FX18` (43_timers_keypad.md; which reads and which sets which timer is the spec's general knowledge G6). -/
def Obligations.TimerInstructionsMoveTheTimers : Prop :=
  ∀ (x : Nibble) (s : State),
    (∃ t, exec (.ldVxDT x) s = .next t ∧ readReg t x = s.dt ∧ PcAdvanced s t ∧ Unchanged { regs := [x] } s t) ∧
    (∃ t, exec (.ldDTVx x) s = .next t ∧ t.dt = readReg s x ∧ PcAdvanced s t ∧ Unchanged { delay := true } s t) ∧
    (∃ t, exec (.ldSTVx x) s = .next t ∧ t.st = readReg s x ∧ PcAdvanced s t ∧ Unchanged { sound := true } s t)

/-- `EX9E` and `EXA1` (R133, R134): the key is the low nibble of `V[x]` (the spec's decision D12), its level decides the
skip. -/
def Obligations.KeySkipsTestTheKeyLevel : Prop :=
  ∀ (x k : Nibble) (s : State), k.toNat = (readReg s x).toNat % 16 →
    (∃ t, exec (.skp x) s = .next t ∧ PcSkipped (keyPressed s k = true) s t ∧ Unchanged {} s t) ∧
    (∃ t, exec (.sknp x) s = .next t ∧ PcSkipped (keyPressed s k = false) s t ∧ Unchanged {} s t)

/-- `FX0A` (R135): without a new press nothing changes; with one its key index goes to `V[x]` (what counts as a new press
is the spec's decision D13). -/
def Obligations.KeyWaitStoresTheNewKey : Prop :=
  ∀ (x : Nibble) (s : State),
    (s.newKey = none → exec (.ldVxK x) s = .next s) ∧
    (∀ k, s.newKey = some k → ∃ t, exec (.ldVxK x) s = .next t ∧ (readReg t x).toNat = k.toNat ∧
      PcAdvanced s t ∧ Unchanged { regs := [x] } s t)

/-! ## Index register and memory family (44_index_memory.md) -/

/-- `ANNN` (R141). -/
def Obligations.LoadIndexStoresNNN : Prop :=
  ∀ (nnn : Addr) (s : State), ∃ t, exec (.ldI nnn) s = .next t ∧ t.i.toNat = nnn.toNat ∧ PcAdvanced s t ∧
    Unchanged { index := true } s t

/-- `FX1E` (R142: 16-bit wrap and no flag are the spec's decision D22) and `FX29` (R143: the low nibble is the digit, the
spec's decision D11; the glyph size is D2, log 6). -/
def Obligations.IndexSumAndGlyphAddress : Prop :=
  ∀ (x : Nibble) (s : State),
    (∃ t, exec (.addI x) s = .next t ∧ t.i.toNat = (s.i.toNat + (readReg s x).toNat) % 65536 ∧
      PcAdvanced s t ∧ Unchanged { index := true } s t) ∧
    (∃ t, exec (.ldF x) s = .next t ∧ t.i.toNat = 0x50 + 5 * ((readReg s x).toNat % 16) ∧
      PcAdvanced s t ∧ Unchanged { index := true } s t)

/-- `FX33` (R144): hundreds, tens and ones at `EA(0)`, `EA(1)`, `EA(2)` (the order is the spec's decision D10). -/
def Obligations.BcdStoresTheDecimalDigits : Prop :=
  ∀ (x : Nibble) (s : State), ∃ t, exec (.ldB x) s = .next t ∧
    (readByte t (dataAddr s 0)).toNat = (readReg s x).toNat / 100 ∧
    (readByte t (dataAddr s 1)).toNat = (readReg s x).toNat / 10 % 10 ∧
    (readByte t (dataAddr s 2)).toNat = (readReg s x).toNat % 10 ∧
    PcAdvanced s t ∧ Unchanged { mem := [dataAddr s 0, dataAddr s 1, dataAddr s 2] } s t

/-- `FX55` (R145): `V[0]`..`V[x]` at `EA(0)`..`EA(x)` (the range and the unchanged `I` are the spec's decision D9). -/
def Obligations.DumpStoresTheRegisterRange : Prop :=
  ∀ (x : Nibble) (s : State), ∃ t, exec (.storeRegs x) s = .next t ∧
    (∀ k ≤ x.toNat, readByte t (dataAddr s k) = readReg s (BitVec.ofNat 4 k)) ∧
    PcAdvanced s t ∧ Unchanged { mem := (List.range (x.toNat + 1)).map (dataAddr s) } s t

/-- `FX65` (R146): `EA(0)`..`EA(x)` in `V[0]`..`V[x]`; the registers above `x` and memory are left alone (the
range and the unchanged `I` are the spec's decision D9). -/
def Obligations.LoadFillsTheRegisterRange : Prop :=
  ∀ (x : Nibble) (s : State), ∃ t, exec (.loadRegs x) s = .next t ∧
    (∀ k ≤ x.toNat, readReg t (BitVec.ofNat 4 k) = readByte s (dataAddr s k)) ∧
    PcAdvanced s t ∧ Unchanged { regs := (List.range (x.toNat + 1)).map (BitVec.ofNat 4) } s t

/-- A dump and a later load at the same `I`, every byte of memory reading as the dump left it, bring the registers back
(R145, R146; the range and the unchanged `I` are the spec's decision D9, the wrap of the addresses D5). -/
def Obligations.LoadAfterDumpRestoresRegisters : Prop :=
  ∀ (x : Nibble) (s t u : State), exec (.storeRegs x) s = .next t → u.i = s.i →
    (∀ a, readByte u a = readByte t a) →
    ∃ v, exec (.loadRegs x) u = .next v ∧ ∀ r : Nibble, r.toNat ≤ x.toNat → readReg v r = readReg s r
end

