-- ==== Sys2Proof/Laws/State.lean ====
section
/-! SUPPORT. For every update of the state and every field, what the field is after it: one lemma each, true by rfl, so that no later proof unfolds a record update. -/

namespace Sys2Proof.Machine

variable (s : State)

/-! ### writeReg -/

@[simp] theorem writeReg_v (r : Nibble) (b : Byte) : (writeReg r b s).v = s.v.set r.toNat b r.isLt := rfl
@[simp] theorem writeReg_i (r : Nibble) (b : Byte) : (writeReg r b s).i = s.i := rfl
@[simp] theorem writeReg_pc (r : Nibble) (b : Byte) : (writeReg r b s).pc = s.pc := rfl
@[simp] theorem writeReg_stack (r : Nibble) (b : Byte) : (writeReg r b s).stack = s.stack := rfl
@[simp] theorem writeReg_sp (r : Nibble) (b : Byte) : (writeReg r b s).sp = s.sp := rfl
@[simp] theorem writeReg_dt (r : Nibble) (b : Byte) : (writeReg r b s).dt = s.dt := rfl
@[simp] theorem writeReg_st (r : Nibble) (b : Byte) : (writeReg r b s).st = s.st := rfl
@[simp] theorem writeReg_mem (r : Nibble) (b : Byte) : (writeReg r b s).mem = s.mem := rfl
@[simp] theorem writeReg_font (r : Nibble) (b : Byte) : (writeReg r b s).font = s.font := rfl
@[simp] theorem writeReg_display (r : Nibble) (b : Byte) : (writeReg r b s).display = s.display := rfl
@[simp] theorem writeReg_dirty (r : Nibble) (b : Byte) : (writeReg r b s).dirty = s.dirty := rfl
@[simp] theorem writeReg_keys (r : Nibble) (b : Byte) : (writeReg r b s).keys = s.keys := rfl
@[simp] theorem writeReg_run (r : Nibble) (b : Byte) : (writeReg r b s).run = s.run := rfl
@[simp] theorem writeReg_inputs (r : Nibble) (b : Byte) : (writeReg r b s).inputs = s.inputs := rfl
@[simp] theorem writeReg_newKey (r : Nibble) (b : Byte) : (writeReg r b s).newKey = s.newKey := rfl
@[simp] theorem writeReg_draw (r : Nibble) (b : Byte) : (writeReg r b s).draw = s.draw := rfl
@[simp] theorem writeReg_ticks (r : Nibble) (b : Byte) : (writeReg r b s).ticks = s.ticks := rfl
@[simp] theorem writeReg_out (r : Nibble) (b : Byte) : (writeReg r b s).out = s.out := rfl
@[simp] theorem writeReg_readByte (r : Nibble) (b : Byte) (c : Addr) : readByte (writeReg r b s) c = readByte s c := rfl

/-! ### setPc -/

@[simp] theorem setPc_v (w : Word) : (setPc w s).v = s.v := rfl
@[simp] theorem setPc_i (w : Word) : (setPc w s).i = s.i := rfl
@[simp] theorem setPc_pc (w : Word) : (setPc w s).pc = w := rfl
@[simp] theorem setPc_stack (w : Word) : (setPc w s).stack = s.stack := rfl
@[simp] theorem setPc_sp (w : Word) : (setPc w s).sp = s.sp := rfl
@[simp] theorem setPc_dt (w : Word) : (setPc w s).dt = s.dt := rfl
@[simp] theorem setPc_st (w : Word) : (setPc w s).st = s.st := rfl
@[simp] theorem setPc_mem (w : Word) : (setPc w s).mem = s.mem := rfl
@[simp] theorem setPc_font (w : Word) : (setPc w s).font = s.font := rfl
@[simp] theorem setPc_display (w : Word) : (setPc w s).display = s.display := rfl
@[simp] theorem setPc_dirty (w : Word) : (setPc w s).dirty = s.dirty := rfl
@[simp] theorem setPc_keys (w : Word) : (setPc w s).keys = s.keys := rfl
@[simp] theorem setPc_run (w : Word) : (setPc w s).run = s.run := rfl
@[simp] theorem setPc_inputs (w : Word) : (setPc w s).inputs = s.inputs := rfl
@[simp] theorem setPc_newKey (w : Word) : (setPc w s).newKey = s.newKey := rfl
@[simp] theorem setPc_draw (w : Word) : (setPc w s).draw = s.draw := rfl
@[simp] theorem setPc_ticks (w : Word) : (setPc w s).ticks = s.ticks := rfl
@[simp] theorem setPc_out (w : Word) : (setPc w s).out = s.out := rfl
@[simp] theorem setPc_readReg (w : Word) (q : Nibble) : readReg (setPc w s) q = readReg s q := rfl
@[simp] theorem setPc_readByte (w : Word) (c : Addr) : readByte (setPc w s) c = readByte s c := rfl

/-! ### advance -/

@[simp] theorem advance_v : (advance s).v = s.v := rfl
@[simp] theorem advance_i : (advance s).i = s.i := rfl
@[simp] theorem advance_pc : (advance s).pc = s.pc + 2 := rfl
@[simp] theorem advance_stack : (advance s).stack = s.stack := rfl
@[simp] theorem advance_sp : (advance s).sp = s.sp := rfl
@[simp] theorem advance_dt : (advance s).dt = s.dt := rfl
@[simp] theorem advance_st : (advance s).st = s.st := rfl
@[simp] theorem advance_mem : (advance s).mem = s.mem := rfl
@[simp] theorem advance_font : (advance s).font = s.font := rfl
@[simp] theorem advance_display : (advance s).display = s.display := rfl
@[simp] theorem advance_dirty : (advance s).dirty = s.dirty := rfl
@[simp] theorem advance_keys : (advance s).keys = s.keys := rfl
@[simp] theorem advance_run : (advance s).run = s.run := rfl
@[simp] theorem advance_inputs : (advance s).inputs = s.inputs := rfl
@[simp] theorem advance_newKey : (advance s).newKey = s.newKey := rfl
@[simp] theorem advance_draw : (advance s).draw = s.draw := rfl
@[simp] theorem advance_ticks : (advance s).ticks = s.ticks := rfl
@[simp] theorem advance_out : (advance s).out = s.out := rfl
@[simp] theorem advance_readReg (q : Nibble) : readReg (advance s) q = readReg s q := rfl
@[simp] theorem advance_readByte (c : Addr) : readByte (advance s) c = readByte s c := rfl

/-! ### skipIf -/

@[simp] theorem skipIf_v (c : Bool) : (skipIf c s).v = s.v := rfl
@[simp] theorem skipIf_i (c : Bool) : (skipIf c s).i = s.i := rfl
@[simp] theorem skipIf_pc (c : Bool) : (skipIf c s).pc = (if c then s.pc + 4 else s.pc + 2) := rfl
@[simp] theorem skipIf_stack (c : Bool) : (skipIf c s).stack = s.stack := rfl
@[simp] theorem skipIf_sp (c : Bool) : (skipIf c s).sp = s.sp := rfl
@[simp] theorem skipIf_dt (c : Bool) : (skipIf c s).dt = s.dt := rfl
@[simp] theorem skipIf_st (c : Bool) : (skipIf c s).st = s.st := rfl
@[simp] theorem skipIf_mem (c : Bool) : (skipIf c s).mem = s.mem := rfl
@[simp] theorem skipIf_font (c : Bool) : (skipIf c s).font = s.font := rfl
@[simp] theorem skipIf_display (c : Bool) : (skipIf c s).display = s.display := rfl
@[simp] theorem skipIf_dirty (c : Bool) : (skipIf c s).dirty = s.dirty := rfl
@[simp] theorem skipIf_keys (c : Bool) : (skipIf c s).keys = s.keys := rfl
@[simp] theorem skipIf_run (c : Bool) : (skipIf c s).run = s.run := rfl
@[simp] theorem skipIf_inputs (c : Bool) : (skipIf c s).inputs = s.inputs := rfl
@[simp] theorem skipIf_newKey (c : Bool) : (skipIf c s).newKey = s.newKey := rfl
@[simp] theorem skipIf_draw (c : Bool) : (skipIf c s).draw = s.draw := rfl
@[simp] theorem skipIf_ticks (c : Bool) : (skipIf c s).ticks = s.ticks := rfl
@[simp] theorem skipIf_out (c : Bool) : (skipIf c s).out = s.out := rfl
@[simp] theorem skipIf_readReg (c : Bool) (q : Nibble) : readReg (skipIf c s) q = readReg s q := rfl
@[simp] theorem skipIf_readByte (c : Bool) (a : Addr) : readByte (skipIf c s) a = readByte s a := rfl

/-! ### setIndex -/

@[simp] theorem setIndex_v (w : Word) : (setIndex w s).v = s.v := rfl
@[simp] theorem setIndex_i (w : Word) : (setIndex w s).i = w := rfl
@[simp] theorem setIndex_pc (w : Word) : (setIndex w s).pc = s.pc := rfl
@[simp] theorem setIndex_stack (w : Word) : (setIndex w s).stack = s.stack := rfl
@[simp] theorem setIndex_sp (w : Word) : (setIndex w s).sp = s.sp := rfl
@[simp] theorem setIndex_dt (w : Word) : (setIndex w s).dt = s.dt := rfl
@[simp] theorem setIndex_st (w : Word) : (setIndex w s).st = s.st := rfl
@[simp] theorem setIndex_mem (w : Word) : (setIndex w s).mem = s.mem := rfl
@[simp] theorem setIndex_font (w : Word) : (setIndex w s).font = s.font := rfl
@[simp] theorem setIndex_display (w : Word) : (setIndex w s).display = s.display := rfl
@[simp] theorem setIndex_dirty (w : Word) : (setIndex w s).dirty = s.dirty := rfl
@[simp] theorem setIndex_keys (w : Word) : (setIndex w s).keys = s.keys := rfl
@[simp] theorem setIndex_run (w : Word) : (setIndex w s).run = s.run := rfl
@[simp] theorem setIndex_inputs (w : Word) : (setIndex w s).inputs = s.inputs := rfl
@[simp] theorem setIndex_newKey (w : Word) : (setIndex w s).newKey = s.newKey := rfl
@[simp] theorem setIndex_draw (w : Word) : (setIndex w s).draw = s.draw := rfl
@[simp] theorem setIndex_ticks (w : Word) : (setIndex w s).ticks = s.ticks := rfl
@[simp] theorem setIndex_out (w : Word) : (setIndex w s).out = s.out := rfl
@[simp] theorem setIndex_readReg (w : Word) (q : Nibble) : readReg (setIndex w s) q = readReg s q := rfl
@[simp] theorem setIndex_readByte (w : Word) (c : Addr) : readByte (setIndex w s) c = readByte s c := rfl

/-! ### setDelay -/

@[simp] theorem setDelay_v (b : Byte) : (setDelay b s).v = s.v := rfl
@[simp] theorem setDelay_i (b : Byte) : (setDelay b s).i = s.i := rfl
@[simp] theorem setDelay_pc (b : Byte) : (setDelay b s).pc = s.pc := rfl
@[simp] theorem setDelay_stack (b : Byte) : (setDelay b s).stack = s.stack := rfl
@[simp] theorem setDelay_sp (b : Byte) : (setDelay b s).sp = s.sp := rfl
@[simp] theorem setDelay_dt (b : Byte) : (setDelay b s).dt = b := rfl
@[simp] theorem setDelay_st (b : Byte) : (setDelay b s).st = s.st := rfl
@[simp] theorem setDelay_mem (b : Byte) : (setDelay b s).mem = s.mem := rfl
@[simp] theorem setDelay_font (b : Byte) : (setDelay b s).font = s.font := rfl
@[simp] theorem setDelay_display (b : Byte) : (setDelay b s).display = s.display := rfl
@[simp] theorem setDelay_dirty (b : Byte) : (setDelay b s).dirty = s.dirty := rfl
@[simp] theorem setDelay_keys (b : Byte) : (setDelay b s).keys = s.keys := rfl
@[simp] theorem setDelay_run (b : Byte) : (setDelay b s).run = s.run := rfl
@[simp] theorem setDelay_inputs (b : Byte) : (setDelay b s).inputs = s.inputs := rfl
@[simp] theorem setDelay_newKey (b : Byte) : (setDelay b s).newKey = s.newKey := rfl
@[simp] theorem setDelay_draw (b : Byte) : (setDelay b s).draw = s.draw := rfl
@[simp] theorem setDelay_ticks (b : Byte) : (setDelay b s).ticks = s.ticks := rfl
@[simp] theorem setDelay_out (b : Byte) : (setDelay b s).out = s.out := rfl
@[simp] theorem setDelay_readReg (b : Byte) (q : Nibble) : readReg (setDelay b s) q = readReg s q := rfl
@[simp] theorem setDelay_readByte (b : Byte) (c : Addr) : readByte (setDelay b s) c = readByte s c := rfl

/-! ### setSound -/

@[simp] theorem setSound_v (b : Byte) : (setSound b s).v = s.v := rfl
@[simp] theorem setSound_i (b : Byte) : (setSound b s).i = s.i := rfl
@[simp] theorem setSound_pc (b : Byte) : (setSound b s).pc = s.pc := rfl
@[simp] theorem setSound_stack (b : Byte) : (setSound b s).stack = s.stack := rfl
@[simp] theorem setSound_sp (b : Byte) : (setSound b s).sp = s.sp := rfl
@[simp] theorem setSound_dt (b : Byte) : (setSound b s).dt = s.dt := rfl
@[simp] theorem setSound_st (b : Byte) : (setSound b s).st = b := rfl
@[simp] theorem setSound_mem (b : Byte) : (setSound b s).mem = s.mem := rfl
@[simp] theorem setSound_font (b : Byte) : (setSound b s).font = s.font := rfl
@[simp] theorem setSound_display (b : Byte) : (setSound b s).display = s.display := rfl
@[simp] theorem setSound_dirty (b : Byte) : (setSound b s).dirty = s.dirty := rfl
@[simp] theorem setSound_keys (b : Byte) : (setSound b s).keys = s.keys := rfl
@[simp] theorem setSound_run (b : Byte) : (setSound b s).run = s.run := rfl
@[simp] theorem setSound_inputs (b : Byte) : (setSound b s).inputs = s.inputs := rfl
@[simp] theorem setSound_newKey (b : Byte) : (setSound b s).newKey = s.newKey := rfl
@[simp] theorem setSound_draw (b : Byte) : (setSound b s).draw = s.draw := rfl
@[simp] theorem setSound_ticks (b : Byte) : (setSound b s).ticks = s.ticks := rfl
@[simp] theorem setSound_out (b : Byte) : (setSound b s).out = s.out := rfl
@[simp] theorem setSound_readReg (b : Byte) (q : Nibble) : readReg (setSound b s) q = readReg s q := rfl
@[simp] theorem setSound_readByte (b : Byte) (c : Addr) : readByte (setSound b s) c = readByte s c := rfl

/-! ### writeByte -/

@[simp] theorem writeByte_v (a : Addr) (b : Byte) : (writeByte a b s).v = s.v := rfl
@[simp] theorem writeByte_i (a : Addr) (b : Byte) : (writeByte a b s).i = s.i := rfl
@[simp] theorem writeByte_pc (a : Addr) (b : Byte) : (writeByte a b s).pc = s.pc := rfl
@[simp] theorem writeByte_stack (a : Addr) (b : Byte) : (writeByte a b s).stack = s.stack := rfl
@[simp] theorem writeByte_sp (a : Addr) (b : Byte) : (writeByte a b s).sp = s.sp := rfl
@[simp] theorem writeByte_dt (a : Addr) (b : Byte) : (writeByte a b s).dt = s.dt := rfl
@[simp] theorem writeByte_st (a : Addr) (b : Byte) : (writeByte a b s).st = s.st := rfl
@[simp] theorem writeByte_mem (a : Addr) (b : Byte) : (writeByte a b s).mem = memWrite s.font a b s.mem := rfl
@[simp] theorem writeByte_font (a : Addr) (b : Byte) : (writeByte a b s).font = s.font := rfl
@[simp] theorem writeByte_display (a : Addr) (b : Byte) : (writeByte a b s).display = s.display := rfl
@[simp] theorem writeByte_dirty (a : Addr) (b : Byte) : (writeByte a b s).dirty = s.dirty := rfl
@[simp] theorem writeByte_keys (a : Addr) (b : Byte) : (writeByte a b s).keys = s.keys := rfl
@[simp] theorem writeByte_run (a : Addr) (b : Byte) : (writeByte a b s).run = s.run := rfl
@[simp] theorem writeByte_inputs (a : Addr) (b : Byte) : (writeByte a b s).inputs = s.inputs := rfl
@[simp] theorem writeByte_newKey (a : Addr) (b : Byte) : (writeByte a b s).newKey = s.newKey := rfl
@[simp] theorem writeByte_draw (a : Addr) (b : Byte) : (writeByte a b s).draw = s.draw := rfl
@[simp] theorem writeByte_ticks (a : Addr) (b : Byte) : (writeByte a b s).ticks = s.ticks := rfl
@[simp] theorem writeByte_out (a : Addr) (b : Byte) : (writeByte a b s).out = s.out := rfl
@[simp] theorem writeByte_readReg (a : Addr) (b : Byte) (q : Nibble) : readReg (writeByte a b s) q = readReg s q := rfl

/-! ### pushAt -/

@[simp] theorem pushAt_v (j : Fin 16) (w : Word) : (pushAt j w s).v = s.v := rfl
@[simp] theorem pushAt_i (j : Fin 16) (w : Word) : (pushAt j w s).i = s.i := rfl
@[simp] theorem pushAt_pc (j : Fin 16) (w : Word) : (pushAt j w s).pc = s.pc := rfl
@[simp] theorem pushAt_stack (j : Fin 16) (w : Word) : (pushAt j w s).stack = s.stack.set j.val w j.isLt := rfl
@[simp] theorem pushAt_sp (j : Fin 16) (w : Word) : (pushAt j w s).sp = some j := rfl
@[simp] theorem pushAt_dt (j : Fin 16) (w : Word) : (pushAt j w s).dt = s.dt := rfl
@[simp] theorem pushAt_st (j : Fin 16) (w : Word) : (pushAt j w s).st = s.st := rfl
@[simp] theorem pushAt_mem (j : Fin 16) (w : Word) : (pushAt j w s).mem = s.mem := rfl
@[simp] theorem pushAt_font (j : Fin 16) (w : Word) : (pushAt j w s).font = s.font := rfl
@[simp] theorem pushAt_display (j : Fin 16) (w : Word) : (pushAt j w s).display = s.display := rfl
@[simp] theorem pushAt_dirty (j : Fin 16) (w : Word) : (pushAt j w s).dirty = s.dirty := rfl
@[simp] theorem pushAt_keys (j : Fin 16) (w : Word) : (pushAt j w s).keys = s.keys := rfl
@[simp] theorem pushAt_run (j : Fin 16) (w : Word) : (pushAt j w s).run = s.run := rfl
@[simp] theorem pushAt_inputs (j : Fin 16) (w : Word) : (pushAt j w s).inputs = s.inputs := rfl
@[simp] theorem pushAt_newKey (j : Fin 16) (w : Word) : (pushAt j w s).newKey = s.newKey := rfl
@[simp] theorem pushAt_draw (j : Fin 16) (w : Word) : (pushAt j w s).draw = s.draw := rfl
@[simp] theorem pushAt_ticks (j : Fin 16) (w : Word) : (pushAt j w s).ticks = s.ticks := rfl
@[simp] theorem pushAt_out (j : Fin 16) (w : Word) : (pushAt j w s).out = s.out := rfl
@[simp] theorem pushAt_readReg (j : Fin 16) (w : Word) (q : Nibble) : readReg (pushAt j w s) q = readReg s q := rfl
@[simp] theorem pushAt_readByte (j : Fin 16) (w : Word) (c : Addr) : readByte (pushAt j w s) c = readByte s c := rfl

/-! ### setSp -/

@[simp] theorem setSp_v (p : Option (Fin 16)) : (setSp p s).v = s.v := rfl
@[simp] theorem setSp_i (p : Option (Fin 16)) : (setSp p s).i = s.i := rfl
@[simp] theorem setSp_pc (p : Option (Fin 16)) : (setSp p s).pc = s.pc := rfl
@[simp] theorem setSp_stack (p : Option (Fin 16)) : (setSp p s).stack = s.stack := rfl
@[simp] theorem setSp_sp (p : Option (Fin 16)) : (setSp p s).sp = p := rfl
@[simp] theorem setSp_dt (p : Option (Fin 16)) : (setSp p s).dt = s.dt := rfl
@[simp] theorem setSp_st (p : Option (Fin 16)) : (setSp p s).st = s.st := rfl
@[simp] theorem setSp_mem (p : Option (Fin 16)) : (setSp p s).mem = s.mem := rfl
@[simp] theorem setSp_font (p : Option (Fin 16)) : (setSp p s).font = s.font := rfl
@[simp] theorem setSp_display (p : Option (Fin 16)) : (setSp p s).display = s.display := rfl
@[simp] theorem setSp_dirty (p : Option (Fin 16)) : (setSp p s).dirty = s.dirty := rfl
@[simp] theorem setSp_keys (p : Option (Fin 16)) : (setSp p s).keys = s.keys := rfl
@[simp] theorem setSp_run (p : Option (Fin 16)) : (setSp p s).run = s.run := rfl
@[simp] theorem setSp_inputs (p : Option (Fin 16)) : (setSp p s).inputs = s.inputs := rfl
@[simp] theorem setSp_newKey (p : Option (Fin 16)) : (setSp p s).newKey = s.newKey := rfl
@[simp] theorem setSp_draw (p : Option (Fin 16)) : (setSp p s).draw = s.draw := rfl
@[simp] theorem setSp_ticks (p : Option (Fin 16)) : (setSp p s).ticks = s.ticks := rfl
@[simp] theorem setSp_out (p : Option (Fin 16)) : (setSp p s).out = s.out := rfl
@[simp] theorem setSp_readReg (p : Option (Fin 16)) (q : Nibble) : readReg (setSp p s) q = readReg s q := rfl
@[simp] theorem setSp_readByte (p : Option (Fin 16)) (c : Addr) : readByte (setSp p s) c = readByte s c := rfl

/-! ### setDisplay -/

@[simp] theorem setDisplay_v (d : Display) : (setDisplay d s).v = s.v := rfl
@[simp] theorem setDisplay_i (d : Display) : (setDisplay d s).i = s.i := rfl
@[simp] theorem setDisplay_pc (d : Display) : (setDisplay d s).pc = s.pc := rfl
@[simp] theorem setDisplay_stack (d : Display) : (setDisplay d s).stack = s.stack := rfl
@[simp] theorem setDisplay_sp (d : Display) : (setDisplay d s).sp = s.sp := rfl
@[simp] theorem setDisplay_dt (d : Display) : (setDisplay d s).dt = s.dt := rfl
@[simp] theorem setDisplay_st (d : Display) : (setDisplay d s).st = s.st := rfl
@[simp] theorem setDisplay_mem (d : Display) : (setDisplay d s).mem = s.mem := rfl
@[simp] theorem setDisplay_font (d : Display) : (setDisplay d s).font = s.font := rfl
@[simp] theorem setDisplay_display (d : Display) : (setDisplay d s).display = d := rfl
@[simp] theorem setDisplay_dirty (d : Display) : (setDisplay d s).dirty = true := rfl
@[simp] theorem setDisplay_keys (d : Display) : (setDisplay d s).keys = s.keys := rfl
@[simp] theorem setDisplay_run (d : Display) : (setDisplay d s).run = s.run := rfl
@[simp] theorem setDisplay_inputs (d : Display) : (setDisplay d s).inputs = s.inputs := rfl
@[simp] theorem setDisplay_newKey (d : Display) : (setDisplay d s).newKey = s.newKey := rfl
@[simp] theorem setDisplay_draw (d : Display) : (setDisplay d s).draw = s.draw := rfl
@[simp] theorem setDisplay_ticks (d : Display) : (setDisplay d s).ticks = s.ticks := rfl
@[simp] theorem setDisplay_out (d : Display) : (setDisplay d s).out = s.out := rfl
@[simp] theorem setDisplay_readReg (d : Display) (q : Nibble) : readReg (setDisplay d s) q = readReg s q := rfl
@[simp] theorem setDisplay_readByte (d : Display) (c : Addr) : readByte (setDisplay d s) c = readByte s c := rfl

/-! ### raiseFatal -/

@[simp] theorem raiseFatal_v (e : FatalError) : (raiseFatal e s).v = s.v := rfl
@[simp] theorem raiseFatal_i (e : FatalError) : (raiseFatal e s).i = s.i := rfl
@[simp] theorem raiseFatal_pc (e : FatalError) : (raiseFatal e s).pc = s.pc := rfl
@[simp] theorem raiseFatal_stack (e : FatalError) : (raiseFatal e s).stack = s.stack := rfl
@[simp] theorem raiseFatal_sp (e : FatalError) : (raiseFatal e s).sp = s.sp := rfl
@[simp] theorem raiseFatal_dt (e : FatalError) : (raiseFatal e s).dt = s.dt := rfl
@[simp] theorem raiseFatal_st (e : FatalError) : (raiseFatal e s).st = s.st := rfl
@[simp] theorem raiseFatal_mem (e : FatalError) : (raiseFatal e s).mem = s.mem := rfl
@[simp] theorem raiseFatal_font (e : FatalError) : (raiseFatal e s).font = s.font := rfl
@[simp] theorem raiseFatal_display (e : FatalError) : (raiseFatal e s).display = s.display := rfl
@[simp] theorem raiseFatal_dirty (e : FatalError) : (raiseFatal e s).dirty = s.dirty := rfl
@[simp] theorem raiseFatal_keys (e : FatalError) : (raiseFatal e s).keys = s.keys := rfl
@[simp] theorem raiseFatal_run (e : FatalError) : (raiseFatal e s).run = .halted e := rfl
@[simp] theorem raiseFatal_inputs (e : FatalError) : (raiseFatal e s).inputs = s.inputs := rfl
@[simp] theorem raiseFatal_newKey (e : FatalError) : (raiseFatal e s).newKey = s.newKey := rfl
@[simp] theorem raiseFatal_draw (e : FatalError) : (raiseFatal e s).draw = s.draw := rfl
@[simp] theorem raiseFatal_ticks (e : FatalError) : (raiseFatal e s).ticks = s.ticks := rfl
@[simp] theorem raiseFatal_out (e : FatalError) : (raiseFatal e s).out = s.out := rfl
@[simp] theorem raiseFatal_readReg (e : FatalError) (q : Nibble) : readReg (raiseFatal e s) q = readReg s q := rfl
@[simp] theorem raiseFatal_readByte (e : FatalError) (c : Addr) : readByte (raiseFatal e s) c = readByte s c := rfl

/-! ### reportUnknown -/

@[simp] theorem reportUnknown_v (w : Word) : (reportUnknown w s).v = s.v := rfl
@[simp] theorem reportUnknown_i (w : Word) : (reportUnknown w s).i = s.i := rfl
@[simp] theorem reportUnknown_pc (w : Word) : (reportUnknown w s).pc = s.pc := rfl
@[simp] theorem reportUnknown_stack (w : Word) : (reportUnknown w s).stack = s.stack := rfl
@[simp] theorem reportUnknown_sp (w : Word) : (reportUnknown w s).sp = s.sp := rfl
@[simp] theorem reportUnknown_dt (w : Word) : (reportUnknown w s).dt = s.dt := rfl
@[simp] theorem reportUnknown_st (w : Word) : (reportUnknown w s).st = s.st := rfl
@[simp] theorem reportUnknown_mem (w : Word) : (reportUnknown w s).mem = s.mem := rfl
@[simp] theorem reportUnknown_font (w : Word) : (reportUnknown w s).font = s.font := rfl
@[simp] theorem reportUnknown_display (w : Word) : (reportUnknown w s).display = s.display := rfl
@[simp] theorem reportUnknown_dirty (w : Word) : (reportUnknown w s).dirty = s.dirty := rfl
@[simp] theorem reportUnknown_keys (w : Word) : (reportUnknown w s).keys = s.keys := rfl
@[simp] theorem reportUnknown_run (w : Word) : (reportUnknown w s).run = s.run := rfl
@[simp] theorem reportUnknown_inputs (w : Word) : (reportUnknown w s).inputs = s.inputs := rfl
@[simp] theorem reportUnknown_newKey (w : Word) : (reportUnknown w s).newKey = s.newKey := rfl
@[simp] theorem reportUnknown_draw (w : Word) : (reportUnknown w s).draw = s.draw := rfl
@[simp] theorem reportUnknown_ticks (w : Word) : (reportUnknown w s).ticks = s.ticks := rfl
@[simp] theorem reportUnknown_out (w : Word) : (reportUnknown w s).out = { s.out with unknown := some (s.pc, w) } := rfl
@[simp] theorem reportUnknown_readReg (w : Word) (q : Nibble) : readReg (reportUnknown w s) q = readReg s q := rfl
@[simp] theorem reportUnknown_readByte (w : Word) (c : Addr) : readByte (reportUnknown w s) c = readByte s c := rfl

/-! ### setKey -/

@[simp] theorem setKey_v (k : Nibble) (p : Bool) : (setKey k p s).v = s.v := rfl
@[simp] theorem setKey_i (k : Nibble) (p : Bool) : (setKey k p s).i = s.i := rfl
@[simp] theorem setKey_pc (k : Nibble) (p : Bool) : (setKey k p s).pc = s.pc := rfl
@[simp] theorem setKey_stack (k : Nibble) (p : Bool) : (setKey k p s).stack = s.stack := rfl
@[simp] theorem setKey_sp (k : Nibble) (p : Bool) : (setKey k p s).sp = s.sp := rfl
@[simp] theorem setKey_dt (k : Nibble) (p : Bool) : (setKey k p s).dt = s.dt := rfl
@[simp] theorem setKey_st (k : Nibble) (p : Bool) : (setKey k p s).st = s.st := rfl
@[simp] theorem setKey_mem (k : Nibble) (p : Bool) : (setKey k p s).mem = s.mem := rfl
@[simp] theorem setKey_font (k : Nibble) (p : Bool) : (setKey k p s).font = s.font := rfl
@[simp] theorem setKey_display (k : Nibble) (p : Bool) : (setKey k p s).display = s.display := rfl
@[simp] theorem setKey_dirty (k : Nibble) (p : Bool) : (setKey k p s).dirty = s.dirty := rfl
@[simp] theorem setKey_keys (k : Nibble) (p : Bool) : (setKey k p s).keys = s.keys.set k.toNat p k.isLt := rfl
@[simp] theorem setKey_run (k : Nibble) (p : Bool) : (setKey k p s).run = s.run := rfl
@[simp] theorem setKey_inputs (k : Nibble) (p : Bool) : (setKey k p s).inputs = s.inputs := rfl
@[simp] theorem setKey_newKey (k : Nibble) (p : Bool) : (setKey k p s).newKey = s.newKey := rfl
@[simp] theorem setKey_draw (k : Nibble) (p : Bool) : (setKey k p s).draw = s.draw := rfl
@[simp] theorem setKey_ticks (k : Nibble) (p : Bool) : (setKey k p s).ticks = s.ticks := rfl
@[simp] theorem setKey_out (k : Nibble) (p : Bool) : (setKey k p s).out = s.out := rfl
@[simp] theorem setKey_readReg (k : Nibble) (p : Bool) (q : Nibble) : readReg (setKey k p s) q = readReg s q := rfl
@[simp] theorem setKey_readByte (k : Nibble) (p : Bool) (c : Addr) : readByte (setKey k p s) c = readByte s c := rfl

/-! ### beginTick -/

@[simp] theorem beginTick_v : (beginTick s).v = s.v := rfl
@[simp] theorem beginTick_i : (beginTick s).i = s.i := rfl
@[simp] theorem beginTick_pc : (beginTick s).pc = s.pc := rfl
@[simp] theorem beginTick_stack : (beginTick s).stack = s.stack := rfl
@[simp] theorem beginTick_sp : (beginTick s).sp = s.sp := rfl
@[simp] theorem beginTick_dt : (beginTick s).dt = s.dt := rfl
@[simp] theorem beginTick_st : (beginTick s).st = s.st := rfl
@[simp] theorem beginTick_mem : (beginTick s).mem = s.mem := rfl
@[simp] theorem beginTick_font : (beginTick s).font = s.font := rfl
@[simp] theorem beginTick_display : (beginTick s).display = s.display := rfl
@[simp] theorem beginTick_dirty : (beginTick s).dirty = s.dirty := rfl
@[simp] theorem beginTick_keys : (beginTick s).keys = s.keys := rfl
@[simp] theorem beginTick_run : (beginTick s).run = s.run := rfl
@[simp] theorem beginTick_inputs : (beginTick s).inputs = s.inputs.tail := rfl
@[simp] theorem beginTick_newKey : (beginTick s).newKey = none := rfl
@[simp] theorem beginTick_draw : (beginTick s).draw = (nextInput s).rand := rfl
@[simp] theorem beginTick_ticks : (beginTick s).ticks = s.ticks := rfl
@[simp] theorem beginTick_out : (beginTick s).out = Outputs.none := rfl
@[simp] theorem beginTick_readReg (q : Nibble) : readReg (beginTick s) q = readReg s q := rfl
@[simp] theorem beginTick_readByte (c : Addr) : readByte (beginTick s) c = readByte s c := rfl

/-! ### timerPhase -/

@[simp] theorem timerPhase_v : (timerPhase s).v = s.v := rfl
@[simp] theorem timerPhase_i : (timerPhase s).i = s.i := rfl
@[simp] theorem timerPhase_pc : (timerPhase s).pc = s.pc := rfl
@[simp] theorem timerPhase_stack : (timerPhase s).stack = s.stack := rfl
@[simp] theorem timerPhase_sp : (timerPhase s).sp = s.sp := rfl
@[simp] theorem timerPhase_dt : (timerPhase s).dt = decTimer s.dt := rfl
@[simp] theorem timerPhase_st : (timerPhase s).st = decTimer s.st := rfl
@[simp] theorem timerPhase_mem : (timerPhase s).mem = s.mem := rfl
@[simp] theorem timerPhase_font : (timerPhase s).font = s.font := rfl
@[simp] theorem timerPhase_display : (timerPhase s).display = s.display := rfl
@[simp] theorem timerPhase_dirty : (timerPhase s).dirty = s.dirty := rfl
@[simp] theorem timerPhase_keys : (timerPhase s).keys = s.keys := rfl
@[simp] theorem timerPhase_run : (timerPhase s).run = s.run := rfl
@[simp] theorem timerPhase_inputs : (timerPhase s).inputs = s.inputs := rfl
@[simp] theorem timerPhase_newKey : (timerPhase s).newKey = s.newKey := rfl
@[simp] theorem timerPhase_draw : (timerPhase s).draw = s.draw := rfl
@[simp] theorem timerPhase_ticks : (timerPhase s).ticks = s.ticks := rfl
@[simp] theorem timerPhase_out : (timerPhase s).out = { s.out with beep := decide (s.st.toNat = 1) } := rfl
@[simp] theorem timerPhase_readReg (q : Nibble) : readReg (timerPhase s) q = readReg s q := rfl
@[simp] theorem timerPhase_readByte (c : Addr) : readByte (timerPhase s) c = readByte s c := rfl

/-! ### endTick -/

@[simp] theorem endTick_v : (endTick s).v = s.v := rfl
@[simp] theorem endTick_i : (endTick s).i = s.i := rfl
@[simp] theorem endTick_pc : (endTick s).pc = s.pc := rfl
@[simp] theorem endTick_stack : (endTick s).stack = s.stack := rfl
@[simp] theorem endTick_sp : (endTick s).sp = s.sp := rfl
@[simp] theorem endTick_dt : (endTick s).dt = s.dt := rfl
@[simp] theorem endTick_st : (endTick s).st = s.st := rfl
@[simp] theorem endTick_mem : (endTick s).mem = s.mem := rfl
@[simp] theorem endTick_font : (endTick s).font = s.font := rfl
@[simp] theorem endTick_display : (endTick s).display = s.display := rfl
@[simp] theorem endTick_dirty : (endTick s).dirty = s.dirty := rfl
@[simp] theorem endTick_keys : (endTick s).keys = s.keys := rfl
@[simp] theorem endTick_run : (endTick s).run = s.run := rfl
@[simp] theorem endTick_inputs : (endTick s).inputs = s.inputs := rfl
@[simp] theorem endTick_newKey : (endTick s).newKey = none := rfl
@[simp] theorem endTick_draw : (endTick s).draw = none := rfl
@[simp] theorem endTick_ticks : (endTick s).ticks = s.ticks + 1 := rfl
@[simp] theorem endTick_out : (endTick s).out = s.out := rfl
@[simp] theorem endTick_readReg (q : Nibble) : readReg (endTick s) q = readReg s q := rfl
@[simp] theorem endTick_readByte (c : Addr) : readByte (endTick s) c = readByte s c := rfl

end Sys2Proof.Machine
end

