-- ==== Sys2Proof/Laws/Memory.lean ====
section
/-! SUPPORT. Memory: a read after a write, and that every write keeps the canonical form. -/

namespace Sys2Proof.Machine

theorem memFind_insert (a c : Nat) (b : Byte) (m : Memory) :
    memFind c (memInsert a b m) = if c = a then some b else memFind c m := by
  by_cases h : c = a
  · subst h
    induction m with
    | nil => simp [memInsert, memFind]
    | cons e m ih =>
      simp only [memInsert]
      split
      · simp [memFind]
      · split
        · simp [memFind]
        · rename_i hne; simpa [memFind, Ne.symm hne] using ih
  · induction m with
    | nil => simp [memInsert, memFind, h, Ne.symm h]
    | cons e m ih =>
      simp only [memInsert]
      split
      · simp [memFind, Ne.symm h]
      · split
        · rename_i heq; simp [memFind, ← heq, Ne.symm h]
        · simpa [memFind, h] using congrArg _ ih

theorem memFind_erase (a c : Nat) (m : Memory) :
    memFind c (memErase a m) = if c = a then none else memFind c m := by
  induction m with
  | nil => simp [memErase, memFind]
  | cons e m ih =>
    obtain ⟨a', b'⟩ := e
    simp only [memErase] at ih
    by_cases h : a' = a
    · subst h
      by_cases hc : c = a'
      · subst hc; simpa [memErase, memFind] using ih
      · simpa [memErase, memFind, hc, Ne.symm hc] using ih
    · by_cases hc : a' = c
      · subst hc; simp [memErase, memFind, h]
      · simpa [memErase, memFind, h, hc] using ih

/-- A read after a write: the written byte at the written address, the old byte elsewhere (R43, R44). -/
theorem memRead_memWrite (f : Font) (a c : Addr) (b : Byte) (m : Memory) :
    memRead f (memWrite f a b m) c = if c = a then b else memRead f m c := by
  have hc : (c.toNat = a.toNat) ↔ c = a := BitVec.toNat_inj
  simp only [memRead, memWrite]
  split
  · rename_i hb
    rw [memFind_erase]
    by_cases h : c = a
    · subst h; simp [hb]
    · simp [h, hc]
  · rw [memFind_insert]
    by_cases h : c = a
    · subst h; simp
    · simp [h, hc]

theorem mem_memInsert (a : Nat) (b : Byte) (m : Memory) (c : Host.Cell) (h : c ∈ memInsert a b m) :
    c = (a, b) ∨ c ∈ m := by
  induction m with
  | nil => simpa [memInsert] using h
  | cons e m ih =>
    simp only [memInsert] at h
    split at h
    · simpa using h
    · split at h
      · rcases List.mem_cons.1 h with h | h
        · exact .inl h
        · exact .inr (List.mem_cons_of_mem _ h)
      · rcases List.mem_cons.1 h with h | h
        · exact .inr (h ▸ List.mem_cons_self ..)
        · exact (ih h).imp_right (List.mem_cons_of_mem _)

theorem pairwise_memInsert (a : Nat) (b : Byte) (m : Memory) (h : m.Pairwise (fun c d => c.1 < d.1)) :
    (memInsert a b m).Pairwise (fun c d => c.1 < d.1) := by
  induction m with
  | nil => simp [memInsert]
  | cons e m ih =>
    obtain ⟨a', b'⟩ := e
    rw [List.pairwise_cons] at h
    simp only [memInsert]
    split
    · rename_i hlt
      refine List.pairwise_cons.2 ⟨fun d hd => ?_, List.pairwise_cons.2 h⟩
      rcases List.mem_cons.1 hd with rfl | hd
      · exact hlt
      · exact Nat.lt_trans hlt (h.1 d hd)
    · split
      · rename_i heq
        exact List.pairwise_cons.2 ⟨fun d hd => heq ▸ h.1 d hd, h.2⟩
      · refine List.pairwise_cons.2 ⟨fun d hd => ?_, ih h.2⟩
        rcases mem_memInsert a b m d hd with rfl | hd
        · simp only; omega
        · exact h.1 d hd

/-- A write keeps the canonical form. -/
theorem memWrite_wf (f : Font) (a : Addr) (b : Byte) (m : Memory) (h : Memory.wf f m) :
    Memory.wf f (memWrite f a b m) := by
  simp only [memWrite]
  split
  · exact ⟨h.1.filter _, fun c hc => h.2 c (List.mem_filter.1 hc).1⟩
  · rename_i hb
    refine ⟨pairwise_memInsert _ _ _ h.1, fun c hc => ?_⟩
    rcases mem_memInsert _ _ _ _ hc with rfl | hc
    · exact ⟨a.isLt, hb⟩
    · exact h.2 c hc

/-- Reset memory is canonical. -/
theorem reset_mem_wf (p : Params) : Memory.wf (State.resetWith p).font (State.resetWith p).mem := by
  simp [State.resetWith, Memory.wf]

end Sys2Proof.Machine
end

