-- ==== Sys2Proof/Laws/Ops.lean ====
section
/-! SUPPORT. One law per shared operation: what reads see after it, and what it leaves alone. -/

namespace Sys2Proof.Machine

variable (s : State)

@[simp] theorem readReg_writeReg (r q : Nibble) (b : Byte) :
    readReg (writeReg r b s) q = if q = r then b else readReg s q := by
  simp only [readReg, writeReg, Vector.getElem_set, BitVec.toNat_inj, eq_comm (a := r)]

@[simp] theorem readByte_writeByte (a c : Addr) (b : Byte) :
    readByte (writeByte a b s) c = if c = a then b else readByte s c :=
  memRead_memWrite s.font a c b s.mem

@[simp] theorem keyPressed_setKey (k q : Nibble) (p : Bool) :
    keyPressed (setKey k p s) q = if q = k then p else keyPressed s q := by
  simp only [keyPressed, setKey, Vector.getElem_set, BitVec.toNat_inj, eq_comm (a := k)]

@[simp] theorem writeRegFlag_def (x : Nibble) (b flag : Byte) :
    writeRegFlag x b flag s = writeReg vf flag (writeReg x b s) := rfl

/-- `EA(k)` is the sum reduced mod 4096 (R45). -/
theorem toNat_wrapAddr (base : Word) (k : Nat) : (wrapAddr base k).toNat = (base.toNat + k) % 4096 := by
  simp [wrapAddr]

/-- Two offsets less than 4096 apart name different addresses. -/
theorem wrapAddr_ne (base : Word) (j k : Nat) (h : j < k) (hk : k < j + 4096) :
    wrapAddr base j ≠ wrapAddr base k := by
  intro e
  have := congrArg BitVec.toNat e
  simp only [toNat_wrapAddr] at this
  omega

/-! ### Storing bytes -/

/-- Storing bytes changes memory alone. -/
theorem storeBytes_frame (base : Word) (k : Nat) (bs : List Byte) (s : State) :
    ∃ m, storeBytes base k bs s = { s with mem := m } := by
  induction bs generalizing k s with
  | nil => exact ⟨s.mem, rfl⟩
  | cons b bs ih =>
    obtain ⟨m, h⟩ := ih (k + 1) (writeByte (wrapAddr base k) b s)
    exact ⟨m, h⟩

@[simp] theorem storeBytes_v (base : Word) (k : Nat) (bs : List Byte) : (storeBytes base k bs s).v = s.v := by
  obtain ⟨w, h⟩ := storeBytes_frame base k bs s
  rw [h]
@[simp] theorem storeBytes_i (base : Word) (k : Nat) (bs : List Byte) : (storeBytes base k bs s).i = s.i := by
  obtain ⟨w, h⟩ := storeBytes_frame base k bs s
  rw [h]
@[simp] theorem storeBytes_pc (base : Word) (k : Nat) (bs : List Byte) : (storeBytes base k bs s).pc = s.pc := by
  obtain ⟨w, h⟩ := storeBytes_frame base k bs s
  rw [h]
@[simp] theorem storeBytes_stack (base : Word) (k : Nat) (bs : List Byte) : (storeBytes base k bs s).stack = s.stack := by
  obtain ⟨w, h⟩ := storeBytes_frame base k bs s
  rw [h]
@[simp] theorem storeBytes_sp (base : Word) (k : Nat) (bs : List Byte) : (storeBytes base k bs s).sp = s.sp := by
  obtain ⟨w, h⟩ := storeBytes_frame base k bs s
  rw [h]
@[simp] theorem storeBytes_dt (base : Word) (k : Nat) (bs : List Byte) : (storeBytes base k bs s).dt = s.dt := by
  obtain ⟨w, h⟩ := storeBytes_frame base k bs s
  rw [h]
@[simp] theorem storeBytes_st (base : Word) (k : Nat) (bs : List Byte) : (storeBytes base k bs s).st = s.st := by
  obtain ⟨w, h⟩ := storeBytes_frame base k bs s
  rw [h]
@[simp] theorem storeBytes_display (base : Word) (k : Nat) (bs : List Byte) : (storeBytes base k bs s).display = s.display := by
  obtain ⟨w, h⟩ := storeBytes_frame base k bs s
  rw [h]
@[simp] theorem storeBytes_font (base : Word) (k : Nat) (bs : List Byte) : (storeBytes base k bs s).font = s.font := by
  obtain ⟨w, h⟩ := storeBytes_frame base k bs s
  rw [h]
@[simp] theorem storeBytes_dirty (base : Word) (k : Nat) (bs : List Byte) : (storeBytes base k bs s).dirty = s.dirty := by
  obtain ⟨w, h⟩ := storeBytes_frame base k bs s
  rw [h]
@[simp] theorem storeBytes_keys (base : Word) (k : Nat) (bs : List Byte) : (storeBytes base k bs s).keys = s.keys := by
  obtain ⟨w, h⟩ := storeBytes_frame base k bs s
  rw [h]
@[simp] theorem storeBytes_run (base : Word) (k : Nat) (bs : List Byte) : (storeBytes base k bs s).run = s.run := by
  obtain ⟨w, h⟩ := storeBytes_frame base k bs s
  rw [h]
@[simp] theorem storeBytes_inputs (base : Word) (k : Nat) (bs : List Byte) : (storeBytes base k bs s).inputs = s.inputs := by
  obtain ⟨w, h⟩ := storeBytes_frame base k bs s
  rw [h]
@[simp] theorem storeBytes_newKey (base : Word) (k : Nat) (bs : List Byte) : (storeBytes base k bs s).newKey = s.newKey := by
  obtain ⟨w, h⟩ := storeBytes_frame base k bs s
  rw [h]
@[simp] theorem storeBytes_draw (base : Word) (k : Nat) (bs : List Byte) : (storeBytes base k bs s).draw = s.draw := by
  obtain ⟨w, h⟩ := storeBytes_frame base k bs s
  rw [h]
@[simp] theorem storeBytes_ticks (base : Word) (k : Nat) (bs : List Byte) : (storeBytes base k bs s).ticks = s.ticks := by
  obtain ⟨w, h⟩ := storeBytes_frame base k bs s
  rw [h]
@[simp] theorem storeBytes_out (base : Word) (k : Nat) (bs : List Byte) : (storeBytes base k bs s).out = s.out := by
  obtain ⟨w, h⟩ := storeBytes_frame base k bs s
  rw [h]

/-- A byte that is not stored to is unchanged. -/
theorem storeBytes_read_other (base : Word) (k : Nat) (bs : List Byte) (s : State) (a : Addr)
    (h : ∀ j < bs.length, a ≠ wrapAddr base (k + j)) : readByte (storeBytes base k bs s) a = readByte s a := by
  induction bs generalizing k s with
  | nil => rfl
  | cons b bs ih =>
    rw [storeBytes, ih]
    · have := h 0 (by simp)
      simp_all
    · intro j hj
      have := h (j + 1) (by simpa using hj)
      rwa [show k + 1 + j = k + (j + 1) by omega]

/-- Each stored byte is read back, if the bytes do not run round the whole of memory (R44, R49). -/
theorem storeBytes_read (base : Word) (k : Nat) (bs : List Byte) (s : State) (hlen : bs.length ≤ 4096)
    (j : Nat) (hj : j < bs.length) : readByte (storeBytes base k bs s) (wrapAddr base (k + j)) = bs[j] := by
  induction bs generalizing k s j with
  | nil => simp at hj
  | cons b bs ih =>
    rw [storeBytes]
    cases j with
    | zero =>
      rw [storeBytes_read_other]
      · simp
      · intro i hi
        apply wrapAddr_ne <;> simp at hlen <;> omega
    | succ j =>
      have := ih (k + 1) (writeByte (wrapAddr base k) b s) (by simp at hlen; omega) j (by simpa using hj)
      rw [show k + (j + 1) = k + 1 + j by omega, this]
      simp

/-- Storing keeps memory canonical. -/
theorem storeBytes_wf (base : Word) (k : Nat) (bs : List Byte) (s : State) (h : Memory.wf s.font s.mem) :
    Memory.wf s.font (storeBytes base k bs s).mem := by
  induction bs generalizing k s with
  | nil => exact h
  | cons b bs ih => exact ih _ _ (memWrite_wf _ _ _ _ h)

/-! ### Loading registers -/

/-- Loading registers changes the register file alone. -/
theorem loadRegsFrom_frame (k : Nat) (bs : List Byte) (s : State) :
    ∃ v, loadRegsFrom k bs s = { s with v := v } := by
  induction bs generalizing k s with
  | nil => exact ⟨s.v, rfl⟩
  | cons b bs ih =>
    obtain ⟨v, h⟩ := ih (k + 1) (writeReg (BitVec.ofNat 4 k) b s)
    exact ⟨v, h⟩

@[simp] theorem loadRegsFrom_i (k : Nat) (bs : List Byte) : (loadRegsFrom k bs s).i = s.i := by
  obtain ⟨w, h⟩ := loadRegsFrom_frame k bs s
  rw [h]
@[simp] theorem loadRegsFrom_pc (k : Nat) (bs : List Byte) : (loadRegsFrom k bs s).pc = s.pc := by
  obtain ⟨w, h⟩ := loadRegsFrom_frame k bs s
  rw [h]
@[simp] theorem loadRegsFrom_stack (k : Nat) (bs : List Byte) : (loadRegsFrom k bs s).stack = s.stack := by
  obtain ⟨w, h⟩ := loadRegsFrom_frame k bs s
  rw [h]
@[simp] theorem loadRegsFrom_sp (k : Nat) (bs : List Byte) : (loadRegsFrom k bs s).sp = s.sp := by
  obtain ⟨w, h⟩ := loadRegsFrom_frame k bs s
  rw [h]
@[simp] theorem loadRegsFrom_dt (k : Nat) (bs : List Byte) : (loadRegsFrom k bs s).dt = s.dt := by
  obtain ⟨w, h⟩ := loadRegsFrom_frame k bs s
  rw [h]
@[simp] theorem loadRegsFrom_st (k : Nat) (bs : List Byte) : (loadRegsFrom k bs s).st = s.st := by
  obtain ⟨w, h⟩ := loadRegsFrom_frame k bs s
  rw [h]
@[simp] theorem loadRegsFrom_mem (k : Nat) (bs : List Byte) : (loadRegsFrom k bs s).mem = s.mem := by
  obtain ⟨w, h⟩ := loadRegsFrom_frame k bs s
  rw [h]
@[simp] theorem loadRegsFrom_display (k : Nat) (bs : List Byte) : (loadRegsFrom k bs s).display = s.display := by
  obtain ⟨w, h⟩ := loadRegsFrom_frame k bs s
  rw [h]
@[simp] theorem loadRegsFrom_font (k : Nat) (bs : List Byte) : (loadRegsFrom k bs s).font = s.font := by
  obtain ⟨w, h⟩ := loadRegsFrom_frame k bs s
  rw [h]
@[simp] theorem loadRegsFrom_dirty (k : Nat) (bs : List Byte) : (loadRegsFrom k bs s).dirty = s.dirty := by
  obtain ⟨w, h⟩ := loadRegsFrom_frame k bs s
  rw [h]
@[simp] theorem loadRegsFrom_keys (k : Nat) (bs : List Byte) : (loadRegsFrom k bs s).keys = s.keys := by
  obtain ⟨w, h⟩ := loadRegsFrom_frame k bs s
  rw [h]
@[simp] theorem loadRegsFrom_run (k : Nat) (bs : List Byte) : (loadRegsFrom k bs s).run = s.run := by
  obtain ⟨w, h⟩ := loadRegsFrom_frame k bs s
  rw [h]
@[simp] theorem loadRegsFrom_inputs (k : Nat) (bs : List Byte) : (loadRegsFrom k bs s).inputs = s.inputs := by
  obtain ⟨w, h⟩ := loadRegsFrom_frame k bs s
  rw [h]
@[simp] theorem loadRegsFrom_newKey (k : Nat) (bs : List Byte) : (loadRegsFrom k bs s).newKey = s.newKey := by
  obtain ⟨w, h⟩ := loadRegsFrom_frame k bs s
  rw [h]
@[simp] theorem loadRegsFrom_draw (k : Nat) (bs : List Byte) : (loadRegsFrom k bs s).draw = s.draw := by
  obtain ⟨w, h⟩ := loadRegsFrom_frame k bs s
  rw [h]
@[simp] theorem loadRegsFrom_ticks (k : Nat) (bs : List Byte) : (loadRegsFrom k bs s).ticks = s.ticks := by
  obtain ⟨w, h⟩ := loadRegsFrom_frame k bs s
  rw [h]
@[simp] theorem loadRegsFrom_out (k : Nat) (bs : List Byte) : (loadRegsFrom k bs s).out = s.out := by
  obtain ⟨w, h⟩ := loadRegsFrom_frame k bs s
  rw [h]

/-- Register `r` after the load: its byte where the loaded range reaches it, its old value elsewhere (R146). -/
theorem readReg_loadRegsFrom (k : Nat) (bs : List Byte) (s : State) (h : k + bs.length ≤ 16) (r : Nibble) :
    readReg (loadRegsFrom k bs s) r =
      if k ≤ r.toNat ∧ r.toNat < k + bs.length then bs.getD (r.toNat - k) 0 else readReg s r := by
  induction bs generalizing k s with
  | nil =>
    rw [if_neg]
    · rfl
    · simp
  | cons b bs ih =>
    simp only [List.length_cons] at h ⊢
    rw [loadRegsFrom, ih (k + 1) _ (by omega), readReg_writeReg]
    have hk : r = BitVec.ofNat 4 k ↔ r.toNat = k := by
      constructor
      · rintro rfl; simp; omega
      · intro e; apply BitVec.eq_of_toNat_eq; simp; omega
    by_cases h1 : r.toNat = k
    · rw [if_neg (by omega), if_pos (hk.2 h1), if_pos (by omega), h1]; simp
    · by_cases h2 : k + 1 ≤ r.toNat ∧ r.toNat < k + 1 + bs.length
      · rw [if_pos h2, if_pos (by omega), show r.toNat - k = (r.toNat - (k + 1)) + 1 by omega]; simp
      · rw [if_neg h2, if_neg (fun e => h1 (hk.1 e)), if_neg (by omega)]

/-! ### The display -/

@[simp] theorem togglePixel_width (d : Display) (x y : Nat) : (togglePixel d x y).width = d.width := rfl

@[simp] theorem togglePixel_height (d : Display) (x y : Nat) : (togglePixel d x y).height = d.height := rfl

@[simp] theorem pixelAt_blankDisplay (w h x y : Nat) : pixelAt (blankDisplay w h) x y = false := by
  simp [pixelAt]

/-- A toggled pixel is inverted; every other pixel of the screen is left alone (R122). -/
theorem pixelAt_togglePixel (d : Display) (hw : 0 < d.width) (hh : 0 < d.height) (x y px py : Nat) :
    pixelAt (togglePixel d x y) px py =
      if px % d.width = x % d.width ∧ py % d.height = y % d.height then !pixelAt d px py else pixelAt d px py := by
  by_cases hy : py % d.height = y % d.height
  · by_cases hx : px % d.width = x % d.width
    · simp [pixelAt, togglePixel, hx, hy, hw, hh]
    · simp [pixelAt, togglePixel, hx, hy, hw, hh, Ne.symm hx]
  · simp [pixelAt, togglePixel, hy, hw, hh, Ne.symm hy]

/-- Two displays of one size that agree on every pixel are equal. -/
theorem display_ext {d e : Display} (hw : d.width = e.width) (hh : d.height = e.height)
    (h : ∀ x < d.width, ∀ y < d.height, pixelAt d x y = pixelAt e x y) : d = e := by
  obtain ⟨w, k, rows⟩ := d
  obtain ⟨w', k', rows'⟩ := e
  subst hw hh
  have : rows = rows' := by
    ext y hy x hx
    have := h x hx y hy
    simpa [pixelAt, Nat.zero_lt_of_lt hx, Nat.zero_lt_of_lt hy, Nat.mod_eq_of_lt hx, Nat.mod_eq_of_lt hy] using this
  rw [this]

end Sys2Proof.Machine
end

