-- ==== Sys2Proof/Laws/Display.lean ====
section
/-! SUPPORT. The sprite engine: what a draw does to the display, said once. A draw is one toggle after another over the pixels its 1 bits land on (42_display.md R122), each with the collision test of R122. -/

namespace Sys2Proof.Machine

/-- One toggle and its collision test: what `drawBit` does for a 1 bit. -/
abbrev drawPixel (c : Display × Bool) (p : Nat × Nat) : Display × Bool :=
  (togglePixel c.1 p.1 p.2, c.2 || pixelAt c.1 p.1 p.2)

/-! ### A draw is a sequence of toggles -/

theorem drawCols_eq (x0 y : Nat) (b : Byte) (cols : List Nat) (c : Display × Bool) :
    drawCols x0 y b cols c =
      ((cols.filter fun col => b.getLsbD (7 - col)).map fun col => (x0 + col, y)).foldl drawPixel c := by
  induction cols generalizing c with
  | nil => rfl
  | cons col cols ih =>
    rw [drawCols, ih, List.filter_cons]
    by_cases h : b.getLsbD (7 - col) = true <;> simp [h, drawBit]

theorem drawRows_eq (x0 y0 : Nat) (f : Nat → Byte) (row k : Nat) (c : Display × Bool) :
    drawRows x0 y0 row ((List.range' row k).map f) c =
      ((List.range' row k).flatMap fun r =>
        ((List.range 8).filter fun col => (f r).getLsbD (7 - col)).map fun col => (x0 + col, y0 + r)).foldl
        drawPixel c := by
  induction k generalizing row c with
  | zero => rfl
  | succ k ih =>
    rw [List.range'_succ, List.map_cons, drawRows, ih, List.flatMap_cons, List.foldl_append, drawCols_eq]

/-! ### What a sequence of toggles does -/

@[simp] theorem foldl_drawPixel_width (ps : List (Nat × Nat)) (c : Display × Bool) :
    (ps.foldl drawPixel c).1.width = c.1.width := by
  induction ps generalizing c with
  | nil => rfl
  | cons p ps ih => simp [ih]

@[simp] theorem foldl_drawPixel_height (ps : List (Nat × Nat)) (c : Display × Bool) :
    (ps.foldl drawPixel c).1.height = c.1.height := by
  induction ps generalizing c with
  | nil => rfl
  | cons p ps ih => simp [ih]

/-- A pixel is inverted once for every point of the sequence that wraps to it. -/
theorem foldl_drawPixel_pixel (ps : List (Nat × Nat)) (c : Display × Bool) (px py : Nat)
    (hx : px < c.1.width) (hy : py < c.1.height) :
    pixelAt (ps.foldl drawPixel c).1 px py =
      (pixelAt c.1 px py ^^
        (ps.map fun p => (p.1 % c.1.width, p.2 % c.1.height)).count (px, py) % 2 == 1) := by
  induction ps generalizing c with
  | nil => simp
  | cons p ps ih =>
    have key := ih (drawPixel c p) hx hy
    rw [List.foldl_cons, key, List.map_cons, List.count_cons,
      pixelAt_togglePixel _ (Nat.zero_lt_of_lt hx) (Nat.zero_lt_of_lt hy), Nat.mod_eq_of_lt hx, Nat.mod_eq_of_lt hy]
    simp only [togglePixel_width, togglePixel_height]
    generalize (ps.map fun p => (p.1 % c.1.width, p.2 % c.1.height)).count (px, py) = k
    by_cases h : px = p.1 % c.1.width ∧ py = p.2 % c.1.height
    · rw [if_pos h, if_pos (by rw [beq_iff_eq, ← h.1, ← h.2])]
      rcases Nat.mod_two_eq_zero_or_one k with hk | hk
      · simp [hk, show (k + 1) % 2 = 1 by omega]
      · simp [hk, show (k + 1) % 2 = 0 by omega]
    · have e : ¬((p.1 % c.1.width, p.2 % c.1.height) == (px, py)) = true := by
        rw [beq_iff_eq]
        exact fun e => h ⟨(congrArg Prod.fst e).symm, (congrArg Prod.snd e).symm⟩
      rw [if_neg h, if_neg e, Nat.add_zero]

/-- The collision: a point found its pixel on, at the start or because an earlier point had toggled it. -/
theorem foldl_drawPixel_hit (ps : List (Nat × Nat)) (c : Display × Bool) (hw : 0 < c.1.width) (hh : 0 < c.1.height) :
    (ps.foldl drawPixel c).2 = true ↔ c.2 = true ∨ ∃ px < c.1.width, ∃ py < c.1.height,
      1 ≤ (ps.map fun p => (p.1 % c.1.width, p.2 % c.1.height)).count (px, py) ∧
      (pixelAt c.1 px py = true ∨ 2 ≤ (ps.map fun p => (p.1 % c.1.width, p.2 % c.1.height)).count (px, py)) := by
  induction ps generalizing c with
  | nil => simp
  | cons p ps ih =>
    have key := ih (drawPixel c p) hw hh
    rw [List.foldl_cons, key]
    simp only [togglePixel_width, togglePixel_height, List.map_cons, List.count_cons, Bool.or_eq_true,
      pixelAt_togglePixel _ hw hh]
    have hx : p.1 % c.1.width < c.1.width := Nat.mod_lt _ hw
    have hy : p.2 % c.1.height < c.1.height := Nat.mod_lt _ hh
    have self : pixelAt c.1 p.1 p.2 = pixelAt c.1 (p.1 % c.1.width) (p.2 % c.1.height) := by simp [pixelAt]
    generalize hl : (ps.map fun p => (p.1 % c.1.width, p.2 % c.1.height)) = l
    have hit (px py : Nat) (h : (p.1 % c.1.width, p.2 % c.1.height) = (px, py)) :
        (px < c.1.width ∧ py < c.1.height) ∧ pixelAt c.1 px py = pixelAt c.1 p.1 p.2 ∧
        (px % c.1.width = p.1 % c.1.width ∧ py % c.1.height = p.2 % c.1.height) := by
      simp only [Prod.mk.injEq] at h
      obtain ⟨rfl, rfl⟩ := h
      exact ⟨⟨hx, hy⟩, self.symm, by simp⟩
    constructor
    · rintro ((h | h) | ⟨px, hpx, py, hpy, h1, h2⟩)
      · exact .inl h
      · exact .inr ⟨_, hx, _, hy, by simp, .inl (self ▸ h)⟩
      · refine .inr ⟨px, hpx, py, hpy, Nat.le_add_right_of_le h1, ?_⟩
        by_cases e : (p.1 % c.1.width, p.2 % c.1.height) = (px, py)
        · exact .inr (by rw [if_pos (by simp [e])]; omega)
        · rcases h2 with h2 | h2
          · rw [if_neg (by simpa [Nat.mod_eq_of_lt hpx, Nat.mod_eq_of_lt hpy, eq_comm] using e)] at h2
            exact .inl h2
          · exact .inr (Nat.le_add_right_of_le h2)
    · rintro (h | ⟨px, hpx, py, hpy, h1, h2⟩)
      · exact .inl (.inl h)
      · by_cases e : (p.1 % c.1.width, p.2 % c.1.height) = (px, py)
        · obtain ⟨-, hp, hm⟩ := hit px py e
          cases on : pixelAt c.1 px py
          · refine .inr ⟨px, hpx, py, hpy, ?_, .inl (by rw [if_pos hm, on]; rfl)⟩
            simpa [e, on] using h2
          · exact .inl (.inr (hp ▸ on))
        · refine .inr ⟨px, hpx, py, hpy, by simpa [e] using h1, ?_⟩
          rw [if_neg (by simpa [Nat.mod_eq_of_lt hpx, Nat.mod_eq_of_lt hpy, eq_comm] using e)]
          simpa [e] using h2

/-! ### The whole draw -/

/-- A draw is one toggle after another over the points of its 1 bits, in the visiting order of R122. -/
theorem drawSprite_eq (d : Display) (x0 y0 : Byte) (f : Nat → Byte) (n : Nat) :
    drawSprite d x0 y0 ((List.range n).map f) =
      ((List.range n).flatMap fun row =>
        ((List.range 8).filter fun col => (f row).getLsbD (7 - col)).map fun col =>
          (x0.toNat + col, y0.toNat + row)).foldl drawPixel (d, false) := by
  simp only [drawSprite, List.range_eq_range', drawRows_eq]

/-- A draw keeps the size of the display (R5). -/
theorem drawSprite_size (d : Display) (x0 y0 : Byte) (f : Nat → Byte) (n : Nat) :
    (drawSprite d x0 y0 ((List.range n).map f)).1.width = d.width ∧
      (drawSprite d x0 y0 ((List.range n).map f)).1.height = d.height := by
  rw [drawSprite_eq]
  exact ⟨foldl_drawPixel_width _ _, foldl_drawPixel_height _ _⟩

end Sys2Proof.Machine
end

