-- ==== Sys2Proof/Laws/Exec.lean ====
section
/-! SUPPORT. Facts about every instruction at once: each answers a next state in every state, and none breaks the canonical form of memory. -/

namespace Sys2Proof.Machine

/-- Every instruction answers a next state in every state: no meaning faults or refuses (R154, R170, R171). -/
theorem exec_answers (i : Instr) (s : State) : ∃ t, exec i s = .next t := by
  cases i
  case ret => simp only [exec, execRet]; split <;> exact ⟨_, rfl⟩
  case call nnn => simp only [exec, execCall]; split <;> exact ⟨_, rfl⟩
  case ldVxK x => simp only [exec, execLdVxK]; split <;> exact ⟨_, rfl⟩
  all_goals exact ⟨_, rfl⟩

/-- Every instruction keeps memory canonical. -/
theorem exec_mem_wf {i : Instr} {s t : State} (h : exec i s = .next t) (hs : Memory.wf s.font s.mem) :
    Memory.wf t.font t.mem := by
  cases i
  case ret => simp only [exec, execRet] at h; split at h <;> cases h <;> exact hs
  case call nnn => simp only [exec, execCall] at h; split at h <;> cases h <;> exact hs
  case ldVxK x => simp only [exec, execLdVxK] at h; split at h <;> cases h <;> exact hs
  case ldB x => cases h; exact storeBytes_wf _ _ _ _ hs
  case storeRegs x => cases h; simpa using storeBytes_wf _ _ _ _ hs
  case loadRegs x => cases h; simpa using hs
  all_goals cases h; exact hs

end Sys2Proof.Machine
end

