-- ==== Sys2Proof/Laws/PerInstr.lean ====
section
/-! SUPPORT. Per instruction: its encoded word matches its own row of the opcode table (30_encoding.md R63), one lemma per constructor. -/

namespace Sys2Proof.Laws

theorem getLsbD_encNNN (op : Nibble) (nnn : Addr) (i : Nat) :
    (encNNN op nnn).getLsbD i = if i < 12 then nnn.getLsbD i else op.getLsbD (i - 12) :=
  BitVec.getLsbD_append

theorem getLsbD_encXNN (op x : Nibble) (nn : Byte) (i : Nat) :
    (encXNN op x nn).getLsbD i =
      if i < 8 then nn.getLsbD i else if i - 8 < 4 then x.getLsbD (i - 8) else op.getLsbD (i - 8 - 4) := by
  refine BitVec.getLsbD_append.trans ?_
  split
  · rfl
  · exact BitVec.getLsbD_append

theorem getLsbD_encXYN (op x y n : Nibble) (i : Nat) :
    (encXYN op x y n).getLsbD i =
      if i < 8 then (if i < 4 then n.getLsbD i else y.getLsbD (i - 4))
      else if i - 8 < 4 then x.getLsbD (i - 8) else op.getLsbD (i - 8 - 4) := by
  refine BitVec.getLsbD_append.trans ?_
  split
  · exact BitVec.getLsbD_append
  · exact BitVec.getLsbD_append

theorem encNNN_mask (op : Nibble) (nnn : Addr) : encNNN op nnn &&& 0xF000 = encNNN op 0 := by
  apply BitVec.eq_of_getLsbD_eq
  intro i hi
  simp only [BitVec.getLsbD_and, getLsbD_encNNN]
  interval_cases i <;> simp

theorem encXNN_mask (op x : Nibble) (nn : Byte) : encXNN op x nn &&& 0xF000 = encXNN op 0 0 := by
  apply BitVec.eq_of_getLsbD_eq
  intro i hi
  simp only [BitVec.getLsbD_and, getLsbD_encXNN]
  interval_cases i <;> simp

theorem encXNN_maskSub (op x : Nibble) (nn : Byte) : encXNN op x nn &&& 0xF0FF = encXNN op 0 nn := by
  apply BitVec.eq_of_getLsbD_eq
  intro i hi
  simp only [BitVec.getLsbD_and, getLsbD_encXNN]
  interval_cases i <;> simp

theorem encXYN_mask (op x y n : Nibble) : encXYN op x y n &&& 0xF000 = encXYN op 0 0 0 := by
  apply BitVec.eq_of_getLsbD_eq
  intro i hi
  simp only [BitVec.getLsbD_and, getLsbD_encXYN]
  interval_cases i <;> simp

theorem encXYN_maskSub (op x y n : Nibble) : encXYN op x y n &&& 0xF00F = encXYN op 0 0 n := by
  apply BitVec.eq_of_getLsbD_eq
  intro i hi
  simp only [BitVec.getLsbD_and, getLsbD_encXYN]
  interval_cases i <;> simp

/-- The instruction's encoded word matches the row of R63 with its own pattern. -/
def MatchesRow.Statement (i : Instr) : Prop :=
  ∃ row ∈ opcodeRows, row.pattern = i.pattern ∧ row.hits (encode i) = true

/-- A row of the table with the instruction's pattern settles its statement. -/
theorem matchesRow_of {i : Instr} (row : OpcodeRow) (hm : row ∈ opcodeRows) (hp : row.pattern = i.pattern)
    (hw : encode i &&& row.mask = row.bits) : MatchesRow.Statement i :=
  ⟨row, hm, hp, by simpa [OpcodeRow.hits] using hw⟩

theorem MatchesRow.cls : MatchesRow.Statement (.cls) :=
  matchesRow_of ⟨"00E0", 0xFFFF, 0x00E0⟩ (by decide) rfl (by decide)

theorem MatchesRow.ret : MatchesRow.Statement (.ret) :=
  matchesRow_of ⟨"00EE", 0xFFFF, 0x00EE⟩ (by decide) rfl (by decide)

theorem MatchesRow.jp (nnn : Addr) : MatchesRow.Statement (.jp nnn) :=
  matchesRow_of ⟨"1NNN", 0xF000, 0x1000⟩ (by decide) rfl ((encNNN_mask ..).trans (by decide))

theorem MatchesRow.call (nnn : Addr) : MatchesRow.Statement (.call nnn) :=
  matchesRow_of ⟨"2NNN", 0xF000, 0x2000⟩ (by decide) rfl ((encNNN_mask ..).trans (by decide))

theorem MatchesRow.seImm (x : Nibble) (nn : Byte) : MatchesRow.Statement (.seImm x nn) :=
  matchesRow_of ⟨"3XNN", 0xF000, 0x3000⟩ (by decide) rfl ((encXNN_mask ..).trans (by decide))

theorem MatchesRow.sneImm (x : Nibble) (nn : Byte) : MatchesRow.Statement (.sneImm x nn) :=
  matchesRow_of ⟨"4XNN", 0xF000, 0x4000⟩ (by decide) rfl ((encXNN_mask ..).trans (by decide))

theorem MatchesRow.seReg (x y : Nibble) : MatchesRow.Statement (.seReg x y) :=
  matchesRow_of ⟨"5XY0", 0xF00F, 0x5000⟩ (by decide) rfl ((encXYN_maskSub ..).trans (by decide))

theorem MatchesRow.ldImm (x : Nibble) (nn : Byte) : MatchesRow.Statement (.ldImm x nn) :=
  matchesRow_of ⟨"6XNN", 0xF000, 0x6000⟩ (by decide) rfl ((encXNN_mask ..).trans (by decide))

theorem MatchesRow.addImm (x : Nibble) (nn : Byte) : MatchesRow.Statement (.addImm x nn) :=
  matchesRow_of ⟨"7XNN", 0xF000, 0x7000⟩ (by decide) rfl ((encXNN_mask ..).trans (by decide))

theorem MatchesRow.ldReg (x y : Nibble) : MatchesRow.Statement (.ldReg x y) :=
  matchesRow_of ⟨"8XY0", 0xF00F, 0x8000⟩ (by decide) rfl ((encXYN_maskSub ..).trans (by decide))

theorem MatchesRow.orReg (x y : Nibble) : MatchesRow.Statement (.orReg x y) :=
  matchesRow_of ⟨"8XY1", 0xF00F, 0x8001⟩ (by decide) rfl ((encXYN_maskSub ..).trans (by decide))

theorem MatchesRow.andReg (x y : Nibble) : MatchesRow.Statement (.andReg x y) :=
  matchesRow_of ⟨"8XY2", 0xF00F, 0x8002⟩ (by decide) rfl ((encXYN_maskSub ..).trans (by decide))

theorem MatchesRow.xorReg (x y : Nibble) : MatchesRow.Statement (.xorReg x y) :=
  matchesRow_of ⟨"8XY3", 0xF00F, 0x8003⟩ (by decide) rfl ((encXYN_maskSub ..).trans (by decide))

theorem MatchesRow.addReg (x y : Nibble) : MatchesRow.Statement (.addReg x y) :=
  matchesRow_of ⟨"8XY4", 0xF00F, 0x8004⟩ (by decide) rfl ((encXYN_maskSub ..).trans (by decide))

theorem MatchesRow.subReg (x y : Nibble) : MatchesRow.Statement (.subReg x y) :=
  matchesRow_of ⟨"8XY5", 0xF00F, 0x8005⟩ (by decide) rfl ((encXYN_maskSub ..).trans (by decide))

theorem MatchesRow.shr (x y : Nibble) : MatchesRow.Statement (.shr x y) :=
  matchesRow_of ⟨"8XY6", 0xF00F, 0x8006⟩ (by decide) rfl ((encXYN_maskSub ..).trans (by decide))

theorem MatchesRow.subn (x y : Nibble) : MatchesRow.Statement (.subn x y) :=
  matchesRow_of ⟨"8XY7", 0xF00F, 0x8007⟩ (by decide) rfl ((encXYN_maskSub ..).trans (by decide))

theorem MatchesRow.shl (x y : Nibble) : MatchesRow.Statement (.shl x y) :=
  matchesRow_of ⟨"8XYE", 0xF00F, 0x800E⟩ (by decide) rfl ((encXYN_maskSub ..).trans (by decide))

theorem MatchesRow.sneReg (x y : Nibble) : MatchesRow.Statement (.sneReg x y) :=
  matchesRow_of ⟨"9XY0", 0xF00F, 0x9000⟩ (by decide) rfl ((encXYN_maskSub ..).trans (by decide))

theorem MatchesRow.ldI (nnn : Addr) : MatchesRow.Statement (.ldI nnn) :=
  matchesRow_of ⟨"ANNN", 0xF000, 0xA000⟩ (by decide) rfl ((encNNN_mask ..).trans (by decide))

theorem MatchesRow.jpV0 (nnn : Addr) : MatchesRow.Statement (.jpV0 nnn) :=
  matchesRow_of ⟨"BNNN", 0xF000, 0xB000⟩ (by decide) rfl ((encNNN_mask ..).trans (by decide))

theorem MatchesRow.rnd (x : Nibble) (nn : Byte) : MatchesRow.Statement (.rnd x nn) :=
  matchesRow_of ⟨"CXNN", 0xF000, 0xC000⟩ (by decide) rfl ((encXNN_mask ..).trans (by decide))

theorem MatchesRow.drw (x y n : Nibble) : MatchesRow.Statement (.drw x y n) :=
  matchesRow_of ⟨"DXYN", 0xF000, 0xD000⟩ (by decide) rfl ((encXYN_mask ..).trans (by decide))

theorem MatchesRow.skp (x : Nibble) : MatchesRow.Statement (.skp x) :=
  matchesRow_of ⟨"EX9E", 0xF0FF, 0xE09E⟩ (by decide) rfl ((encXNN_maskSub ..).trans (by decide))

theorem MatchesRow.sknp (x : Nibble) : MatchesRow.Statement (.sknp x) :=
  matchesRow_of ⟨"EXA1", 0xF0FF, 0xE0A1⟩ (by decide) rfl ((encXNN_maskSub ..).trans (by decide))

theorem MatchesRow.ldVxDT (x : Nibble) : MatchesRow.Statement (.ldVxDT x) :=
  matchesRow_of ⟨"FX07", 0xF0FF, 0xF007⟩ (by decide) rfl ((encXNN_maskSub ..).trans (by decide))

theorem MatchesRow.ldVxK (x : Nibble) : MatchesRow.Statement (.ldVxK x) :=
  matchesRow_of ⟨"FX0A", 0xF0FF, 0xF00A⟩ (by decide) rfl ((encXNN_maskSub ..).trans (by decide))

theorem MatchesRow.ldDTVx (x : Nibble) : MatchesRow.Statement (.ldDTVx x) :=
  matchesRow_of ⟨"FX15", 0xF0FF, 0xF015⟩ (by decide) rfl ((encXNN_maskSub ..).trans (by decide))

theorem MatchesRow.ldSTVx (x : Nibble) : MatchesRow.Statement (.ldSTVx x) :=
  matchesRow_of ⟨"FX18", 0xF0FF, 0xF018⟩ (by decide) rfl ((encXNN_maskSub ..).trans (by decide))

theorem MatchesRow.addI (x : Nibble) : MatchesRow.Statement (.addI x) :=
  matchesRow_of ⟨"FX1E", 0xF0FF, 0xF01E⟩ (by decide) rfl ((encXNN_maskSub ..).trans (by decide))

theorem MatchesRow.ldF (x : Nibble) : MatchesRow.Statement (.ldF x) :=
  matchesRow_of ⟨"FX29", 0xF0FF, 0xF029⟩ (by decide) rfl ((encXNN_maskSub ..).trans (by decide))

theorem MatchesRow.ldB (x : Nibble) : MatchesRow.Statement (.ldB x) :=
  matchesRow_of ⟨"FX33", 0xF0FF, 0xF033⟩ (by decide) rfl ((encXNN_maskSub ..).trans (by decide))

theorem MatchesRow.storeRegs (x : Nibble) : MatchesRow.Statement (.storeRegs x) :=
  matchesRow_of ⟨"FX55", 0xF0FF, 0xF055⟩ (by decide) rfl ((encXNN_maskSub ..).trans (by decide))

theorem MatchesRow.loadRegs (x : Nibble) : MatchesRow.Statement (.loadRegs x) :=
  matchesRow_of ⟨"FX65", 0xF0FF, 0xF065⟩ (by decide) rfl ((encXNN_maskSub ..).trans (by decide))

end Sys2Proof.Laws
end

