-- ==== Sys2Proof/Laws/Tick.lean ====
section
/-! SUPPORT. The tick: what its input phase can change, and the cases of a step, said once. -/

namespace Sys2Proof.Machine

/-- Consuming events changes the keys, `new_key` and the run state alone; the run state only to `Quit` (R151). -/
theorem consumeEvents_frame (es : List Event) (s : State) :
    ∃ ks nk r, consumeEvents es s = { s with keys := ks, newKey := nk, run := r } ∧ (r = s.run ∨ r = .quit) := by
  induction es generalizing s with
  | nil => exact ⟨s.keys, s.newKey, s.run, rfl, .inl rfl⟩
  | cons e es ih =>
    cases e with
    | keyDown k => exact ih (setKey k true { s with newKey := noteKeyDown k s })
    | keyUp k => exact ih (setKey k false s)
    | quit => exact ⟨s.keys, s.newKey, .quit, rfl, .inr rfl⟩

/-- Without a `Quit` event the run state stays (R151). -/
theorem consumeEvents_run (es : List Event) (s : State) (h : .quit ∉ es) : (consumeEvents es s).run = s.run := by
  induction es generalizing s with
  | nil => rfl
  | cons e es ih =>
    cases e with
    | keyDown k => exact ih _ (fun m => h (List.mem_cons_of_mem _ m))
    | keyUp k => exact ih _ (fun m => h (List.mem_cons_of_mem _ m))
    | quit => exact absurd (List.mem_cons_self ..) h

/-- The events before a `Quit` are applied, the rest of the list is not consumed (R151). -/
theorem consumeEvents_quit (pre post : List Event) (s : State) (h : .quit ∉ pre) :
    consumeEvents (pre ++ .quit :: post) s = { consumeEvents pre s with run := .quit } := by
  induction pre generalizing s with
  | nil => rfl
  | cons e es ih =>
    cases e with
    | keyDown k => exact ih _ (fun m => h (List.mem_cons_of_mem _ m))
    | keyUp k => exact ih _ (fun m => h (List.mem_cons_of_mem _ m))
    | quit => exact absurd (List.mem_cons_self ..) h

/-- The input phase changes the keys, the run state and the model's own input and output fields alone (R151). -/
theorem inputPhase_frame (s : State) :
    ∃ ks nk r, inputPhase s = { beginTick s with keys := ks, newKey := nk, run := r } ∧ (r = s.run ∨ r = .quit) :=
  consumeEvents_frame (nextInput s).events (beginTick s)

@[simp] theorem finishTick_running (s : State) (h : s.run = .running) :
    finishTick s = endTick (publishPhase (timerPhase s)) := by
  simp [finishTick, h]

@[simp] theorem finishTick_stopped (s : State) (h : s.run ≠ .running) : finishTick s = endTick s := by
  unfold finishTick
  split <;> simp_all

/-- What a step that answers a next state did: it started running, and either a `Quit` event cut the tick short, or the
fetched word was executed and the tick finished (R150, R155). -/
theorem step_cases {s t : State} (h : step s = .next t) :
    s.run = .running ∧
      (((inputPhase s).run ≠ .running ∧ t = endTick (inputPhase s)) ∨
       ((inputPhase s).run = .running ∧
          ∃ u, execDecoded (decode (fetch (inputPhase s))) (inputPhase s) = .next u ∧ t = finishTick u)) := by
  unfold step at h
  split at h
  · rename_i hr
    refine ⟨hr, ?_⟩
    split at h
    · rename_i hi
      refine .inr ⟨hi, ?_⟩
      unfold tickAfterInput at h
      split at h
      · rename_i u hu; exact ⟨u, hu, by simpa using h.symm⟩
      · simp at h
      · simp at h
    · rename_i hi; exact .inl ⟨by simp [hi], by simpa using h.symm⟩
    · rename_i hi; exact .inl ⟨by simp [hi], by simpa using h.symm⟩
  · simp at h
  · simp at h

end Sys2Proof.Machine
end

