-- ==== Sys2Proof/Tests/Slice0.lean ====
section
/-! SUPPORT. The model's own tests: words written out from the spec's encodings, the checks of WellFormed on ill-formed data, spec vectors (95_test_vectors.md, ids T<file>-<n>) one step each, and a witness for the hypotheses of every statement. -/

namespace Sys2Proof.Tests

open Sys2Proof Sys2Proof.Machine Sys2Proof.Safety

/-- The state of an outcome, or the given one. -/
def nextOf (o : Result) (d : State) : State :=
  match o with
  | .next t => t
  | .fault _ => d
  | .refused _ => d

/-- The reset state with a word where the next tick fetches. -/
def placed (w : Nat) : State := State.reset.withFetchWord 16 w

/-- The state after one step. -/
def after (s : State) : State := nextOf (step s) s

/-- The state `s` with the tick's events. -/
def withEvents (es : List Event) (s : State) : State := { s with inputs := [⟨es, none⟩] }

/-! ### Every constructor's decoding, its word written bit by bit from its rule -/

theorem test_decode_cls : decode 0b0000000011100000 = .instr .cls := by decide
theorem test_decode_ret : decode 0b0000000011101110 = .instr .ret := by decide
theorem test_decode_jp : decode 0b0001101010111100 = .instr (.jp 0xABC) := by decide
theorem test_decode_call : decode 0b0010001100000001 = .instr (.call 0x301) := by decide
theorem test_decode_seImm : decode 0b0011001101000010 = .instr (.seImm 3 0x42) := by decide
theorem test_decode_sneImm : decode 0b0100001101000010 = .instr (.sneImm 3 0x42) := by decide
theorem test_decode_seReg : decode 0b0101000100100000 = .instr (.seReg 1 2) := by decide
theorem test_decode_ldImm : decode 0b0110101001000010 = .instr (.ldImm 0xA 0x42) := by decide
theorem test_decode_addImm : decode 0b0111000111111110 = .instr (.addImm 1 0xFE) := by decide
theorem test_decode_ldReg : decode 0b1000000100100000 = .instr (.ldReg 1 2) := by decide
theorem test_decode_orReg : decode 0b1000000100100001 = .instr (.orReg 1 2) := by decide
theorem test_decode_andReg : decode 0b1000000100100010 = .instr (.andReg 1 2) := by decide
theorem test_decode_xorReg : decode 0b1000000100100011 = .instr (.xorReg 1 2) := by decide
theorem test_decode_addReg : decode 0b1000000100100100 = .instr (.addReg 1 2) := by decide
theorem test_decode_subReg : decode 0b1000000100100101 = .instr (.subReg 1 2) := by decide
theorem test_decode_shr : decode 0b1000000100100110 = .instr (.shr 1 2) := by decide
theorem test_decode_subn : decode 0b1000000100100111 = .instr (.subn 1 2) := by decide
theorem test_decode_shl : decode 0b1000000100101110 = .instr (.shl 1 2) := by decide
theorem test_decode_sneReg : decode 0b1001000100100000 = .instr (.sneReg 1 2) := by decide
theorem test_decode_ldI : decode 0b1010001011110000 = .instr (.ldI 0x2F0) := by decide
theorem test_decode_jpV0 : decode 0b1011001100000000 = .instr (.jpV0 0x300) := by decide
theorem test_decode_rnd : decode 0b1100000100001111 = .instr (.rnd 1 0x0F) := by decide
theorem test_decode_drw : decode 0b1101000100100101 = .instr (.drw 1 2 5) := by decide
theorem test_decode_skp : decode 0b1110000110011110 = .instr (.skp 1) := by decide
theorem test_decode_sknp : decode 0b1110000110100001 = .instr (.sknp 1) := by decide
theorem test_decode_ldVxDT : decode 0b1111010100000111 = .instr (.ldVxDT 5) := by decide
theorem test_decode_ldVxK : decode 0b1111001100001010 = .instr (.ldVxK 3) := by decide
theorem test_decode_ldDTVx : decode 0b1111001000010101 = .instr (.ldDTVx 2) := by decide
theorem test_decode_ldSTVx : decode 0b1111001000011000 = .instr (.ldSTVx 2) := by decide
theorem test_decode_addI : decode 0b1111010000011110 = .instr (.addI 4) := by decide
theorem test_decode_ldF : decode 0b1111000000101001 = .instr (.ldF 0) := by decide
theorem test_decode_ldB : decode 0b1111000000110011 = .instr (.ldB 0) := by decide
theorem test_decode_storeRegs : decode 0b1111001001010101 = .instr (.storeRegs 2) := by decide
theorem test_decode_loadRegs : decode 0b1111001001100101 = .instr (.loadRegs 2) := by decide

theorem test_encode_samples :
    encode (.subn 1 2) = 0x8127 ∧ encode (.drw 0xD 0xE 0xF) = 0xDDEF ∧ encode (.loadRegs 0xC) = 0xFC65 := by decide

theorem test_decodeTableWord : decodeTableWord 16 0xD125 = some (.drw 1 2 5) ∧ decodeTableWord 16 0x5AB1 = none := by
  decide

/-! ### WellFormed refuses what is ill-formed, check by check -/

/-- One unknown word of every group of R66. -/
theorem test_wf_word_refuses : WellFormed.word 0x0123 = false ∧ WellFormed.word 0x5AB1 = false ∧
    WellFormed.word 0x8128 = false ∧ WellFormed.word 0x9AB1 = false ∧ WellFormed.word 0xE1A9 = false ∧
    WellFormed.word 0xF166 = false := by decide

theorem test_wf_word_accepts : WellFormed.word 0x00E0 = true ∧ WellFormed.word 0x82F6 = true := by decide

/-- An instruction is two bytes, no less and no more (R60). -/
theorem test_wf_bytes_refuses : WellFormed.instrBytes [0x60] = false ∧
    WellFormed.instrBytes [0x60, 0x10, 0x00] = false ∧ WellFormed.instrBytes [0x01, 0xE0] = false := by decide

theorem test_decodeBytes_truncated : decodeBytes [0x60] = .truncated := by decide

/-- L-04 and L-03: 3585 bytes are too many, 3584 are not (R52). -/
theorem test_wf_program_refuses : WellFormed.program (List.replicate 3585 0) = false := by
  simp only [WellFormed.program, List.length_replicate]; decide

theorem test_wf_program_accepts : WellFormed.program (List.replicate 3584 0) = true := by
  simp only [WellFormed.program, List.length_replicate]; decide

/-- D1: a display has at least one column and one row. -/
theorem test_wf_params_refuses : WellFormed.params ⟨0, 32, defaultFont⟩ = false ∧
    WellFormed.params ⟨64, 0, defaultFont⟩ = false := by decide

theorem test_wf_params_accepts : WellFormed.params defaultParams = true ∧ WellFormed.params ⟨1, 1, defaultFont⟩ = true := by
  decide

/-- A memory that lists a reset byte, or lists addresses out of order, is not canonical. -/
theorem test_memory_wf_refuses : ¬Memory.wf defaultFont [(0x300, 0x00)] ∧ ¬Memory.wf defaultFont [(0x50, 0xF0)] ∧
    ¬Memory.wf defaultFont [(0x301, 1), (0x300, 1)] ∧ ¬Memory.wf defaultFont [(0x1000, 1)] := by decide

/-! ### One step of each instruction, from the spec's vectors -/

/-- R50, R200: a machine created with a font of its own reads it at 0x50 to 0x9F, and no further. -/
theorem test_font_parameter : readByte (State.resetWith ⟨64, 32, Vector.replicate 80 0xAA⟩) 0x050 = 0xAA ∧
    readByte (State.resetWith ⟨64, 32, Vector.replicate 80 0xAA⟩) 0x09F = 0xAA ∧
    readByte (State.resetWith ⟨64, 32, Vector.replicate 80 0xAA⟩) 0x0A0 = 0x00 := by decide

/-- T42-02: the display is cleared, `VF` not written. -/
theorem test_cls : pixelAt (after { writeReg vf 1 (placed 0x00E0) with display := togglePixel (blankDisplay 64 32) 10 5 }).display
    10 5 = false ∧ readReg (after (writeReg vf 1 (placed 0x00E0))) vf = 1 := by decide

/-- T42-01: a frame is published of a display that was blank. -/
theorem test_cls_frame : (after (placed 0x00E0)).out.frame = some (blankDisplay 64 32) := by decide

/-- T41-16. -/
theorem test_ret : (after (pushAt 1 0x1235 (pushAt 0 0x0206 (placed 0x00EE)))).pc = 0x1235 ∧
    (after (pushAt 1 0x1235 (pushAt 0 0x0206 (placed 0x00EE)))).sp = some 0 := by decide

/-- T41-15: a stale `stack[0]` is not popped, no timer moves. -/
theorem test_ret_underflow :
    (after (setDelay 5 (setSp none (pushAt 0 0x0300 (placed 0x00EE))))).run = .halted .stackUnderflow ∧
    (after (setDelay 5 (setSp none (pushAt 0 0x0300 (placed 0x00EE))))).pc = 0x0200 ∧
    (after (setDelay 5 (setSp none (pushAt 0 0x0300 (placed 0x00EE))))).dt = 5 := by decide

/-- T41-01. -/
theorem test_jp : (after (placed 0x1ABC)).pc = 0x0ABC := by decide

/-- T41-10: the 16th entry. -/
theorem test_call : (after (setSp (some 14) (placed 0x2300))).sp = some 15 ∧
    (after (setSp (some 14) (placed 0x2300))).stack[15] = 0x0202 ∧
    (after (setSp (some 14) (placed 0x2300))).pc = 0x0300 := by decide

/-- T41-11: the 17th entry. -/
theorem test_call_overflow : (after (setSound 1 (setSp (some 15) (placed 0x2300)))).run = .halted .stackOverflow ∧
    (after (setSound 1 (setSp (some 15) (placed 0x2300)))).pc = 0x0200 ∧
    (after (setSound 1 (setSp (some 15) (placed 0x2300)))).out.beep = false := by decide

/-- T41-17, T41-18. -/
theorem test_seImm : (after (writeReg 3 0x42 (placed 0x3342))).pc = 0x0204 ∧
    (after (writeReg 3 0x41 (placed 0x3342))).pc = 0x0202 := by decide

/-- T41-19, T41-20. -/
theorem test_sneImm : (after (writeReg 3 0x41 (placed 0x4342))).pc = 0x0204 ∧
    (after (writeReg 3 0x42 (placed 0x4342))).pc = 0x0202 := by decide

/-- T41-21, T41-22. -/
theorem test_seReg : (after (writeReg 1 7 (writeReg 2 7 (placed 0x5120)))).pc = 0x0204 ∧
    (after (writeReg 1 7 (writeReg 2 8 (placed 0x5120)))).pc = 0x0202 := by decide

/-- T40-01. -/
theorem test_ldImm : readReg (after (placed 0x6A42)) 0xA = 0x42 := by decide

/-- T40-04: the sum wraps and `VF` stays. -/
theorem test_addImm : readReg (after (writeReg 1 0xFF (writeReg vf 7 (placed 0x7101)))) 1 = 0 ∧
    readReg (after (writeReg 1 0xFF (writeReg vf 7 (placed 0x7101)))) vf = 7 := by decide

/-- T40-06. -/
theorem test_ldReg : readReg (after (writeReg 0 0xAA (writeReg 1 0x33 (placed 0x8010)))) 0 = 0x33 := by decide

/-- T40-08. -/
theorem test_orReg : readReg (after (writeReg 0 0x0F (writeReg 1 0xF0 (writeReg vf 0x55 (placed 0x8011))))) 0 = 0xFF ∧
    readReg (after (writeReg 0 0x0F (writeReg 1 0xF0 (writeReg vf 0x55 (placed 0x8011))))) vf = 0x55 := by decide

/-- T40-09. -/
theorem test_andReg : readReg (after (writeReg 0 0x3C (writeReg 1 0x0F (placed 0x8012)))) 0 = 0x0C := by decide

/-- T40-10. -/
theorem test_xorReg : readReg (after (writeReg 0 0x3C (writeReg 1 0x0F (placed 0x8013)))) 0 = 0x33 := by decide

/-- T40-13. -/
theorem test_addReg_carry : readReg (after (writeReg 0 0xFF (writeReg 1 1 (placed 0x8014)))) 0 = 0 ∧
    readReg (after (writeReg 0 0xFF (writeReg 1 1 (placed 0x8014)))) vf = 1 := by decide

/-- T40-17: with `x` = F the carry stays, not the sum. -/
theorem test_addReg_flag_last : readReg (after (writeReg vf 1 (writeReg 1 2 (placed 0x8F14)))) vf = 0 := by decide

/-- T40-20. -/
theorem test_subReg_borrow : readReg (after (writeReg 0 1 (writeReg 1 2 (placed 0x8015)))) 0 = 0xFF ∧
    readReg (after (writeReg 0 1 (writeReg 1 2 (placed 0x8015)))) vf = 0 := by decide

/-- T40-21: equal operands do not borrow. -/
theorem test_subReg_equal : readReg (after (writeReg 0 5 (writeReg 1 5 (placed 0x8015)))) vf = 1 := by decide

/-- T40-24: `V[y]` is not read. -/
theorem test_shr : readReg (after (writeReg 2 5 (writeReg vf 0xEE (placed 0x82F6)))) 2 = 2 ∧
    readReg (after (writeReg 2 5 (writeReg vf 0xEE (placed 0x82F6)))) vf = 1 := by decide

/-- T40-29. -/
theorem test_subn : readReg (after (writeReg 0 5 (writeReg 1 3 (placed 0x8017)))) 0 = 0xFE ∧
    readReg (after (writeReg 0 5 (writeReg 1 3 (placed 0x8017)))) vf = 0 := by decide

/-- T40-32. -/
theorem test_shl : readReg (after (writeReg 2 0x81 (placed 0x820E))) 2 = 2 ∧
    readReg (after (writeReg 2 0x81 (placed 0x820E))) vf = 1 := by decide

/-- T41-24, T41-25. -/
theorem test_sneReg : (after (writeReg 1 7 (writeReg 2 8 (placed 0x9120)))).pc = 0x0204 ∧
    (after (writeReg 1 7 (writeReg 2 7 (placed 0x9120)))).pc = 0x0202 := by decide

/-- T44-02: the upper bits are cleared. -/
theorem test_ldI : (after (setIndex 0xFFFF (placed 0xAFFF))).i = 0x0FFF := by decide

/-- T41-06: the largest target, unmasked. -/
theorem test_jpV0 : (after (writeReg 0 0xFF (placed 0xBFFF))).pc = 0x10FE := by decide

/-- T40-35, with the byte the host fixed. -/
theorem test_rnd : readReg (after { placed 0xC10F with inputs := [⟨[], some 0xB7⟩] }) 1 = 0x07 := by decide

/-- T40-36: mask 0, whatever the draw. -/
theorem test_rnd_mask_zero : readReg (after { placed 0xC100 with inputs := [⟨[], some 0xFF⟩] }) 1 = 0 := by decide

/-- T42-03 (the example of R122): horizontal wrap. -/
theorem test_drw_wraps :
    pixelAt (after (writeReg 0 63 (writeReg 1 31 (setIndex 0x300 (writeByte 0x300 0xC0 (placed 0xD011)))))).display 63 31 =
      true ∧
    pixelAt (after (writeReg 0 63 (writeReg 1 31 (setIndex 0x300 (writeByte 0x300 0xC0 (placed 0xD011)))))).display 0 31 =
      true := by decide

/-- T42-05: a collision turns the pixel off. -/
theorem test_drw_collides :
    readReg (after { setIndex 0x300 (writeByte 0x300 0x80 (placed 0xD011)) with
      display := togglePixel (blankDisplay 64 32) 0 0 }) vf = 1 := by decide

/-- T43-19: the low nibble names the key. -/
theorem test_skp : (after (setKey 5 true (writeReg 1 0x15 (placed 0xE19E)))).pc = 0x0204 ∧
    (after (writeReg 1 0x15 (placed 0xE19E))).pc = 0x0202 := by decide

/-- T43-22, T43-25. -/
theorem test_sknp : (after (setKey 5 true (writeReg 1 5 (placed 0xE1A1)))).pc = 0x0202 ∧
    (after (writeReg 1 0xF0 (placed 0xE1A1))).pc = 0x0204 := by decide

/-- T43-01: the value before this tick's decrement. -/
theorem test_ldVxDT : readReg (after (setDelay 0x2A (placed 0xF307))) 3 = 0x2A ∧
    (after (setDelay 0x2A (placed 0xF307))).dt = 0x29 := by decide

/-- T43-26: waiting, the timers run and the beep fires. -/
theorem test_ldVxK_waits : (after (setDelay 9 (setSound 1 (placed 0xF30A)))).pc = 0x0200 ∧
    (after (setDelay 9 (setSound 1 (placed 0xF30A)))).dt = 8 ∧
    (after (setDelay 9 (setSound 1 (placed 0xF30A)))).out.beep = true := by decide

/-- T43-30: key 3 is held, the first transition is key 9. -/
theorem test_ldVxK_first_transition :
    readReg (after (withEvents [.keyDown 3, .keyDown 9] (setKey 3 true (placed 0xF30A)))) 3 = 9 := by decide

/-- T43-03: written and decremented in the same tick. -/
theorem test_ldDTVx : (after (writeReg 2 0x3C (placed 0xF215))).dt = 0x3B := by decide

/-- T43-06, T43-08: 1 written beeps in the same tick, 0 written over 1 does not. -/
theorem test_ldSTVx : (after (writeReg 2 1 (placed 0xF218))).out.beep = true ∧
    (after (setSound 1 (placed 0xF218))).out.beep = false := by decide

/-- T44-04: past 0x0FFF without a flag. -/
theorem test_addI : (after (writeReg 1 1 (writeReg vf 7 (setIndex 0x0FFF (placed 0xF11E))))).i = 0x1000 ∧
    readReg (after (writeReg 1 1 (writeReg vf 7 (setIndex 0x0FFF (placed 0xF11E))))) vf = 7 := by decide

/-- T44-10: digit 0x1A is digit A. -/
theorem test_ldF : (after (writeReg 0 0x1A (placed 0xF029))).i = 0x0082 := by decide

/-- T44-16: 123 across the end of memory. -/
theorem test_ldB : readByte (after (writeReg 0 0x7B (setIndex 0x0FFE (placed 0xF033)))) 0xFFE = 1 ∧
    readByte (after (writeReg 0 0x7B (setIndex 0x0FFE (placed 0xF033)))) 0xFFF = 2 ∧
    readByte (after (writeReg 0 0x7B (setIndex 0x0FFE (placed 0xF033)))) 0x000 = 3 := by decide

/-- T44-19: `V[3]` is not stored. -/
theorem test_storeRegs :
    readByte (after (writeReg 2 0x33 (writeReg 3 0x44 (setIndex 0x300 (placed 0xF255))))) 0x302 = 0x33 ∧
    readByte (after (writeReg 2 0x33 (writeReg 3 0x44 (setIndex 0x300 (placed 0xF255))))) 0x303 = 0x00 := by decide

/-- T44-24: glyph 0 from the font. -/
theorem test_loadRegs : readReg (after (setIndex 0x0050 (placed 0xF465))) 0 = 0xF0 ∧
    readReg (after (setIndex 0x0050 (placed 0xF465))) 4 = 0xF0 ∧
    readReg (after (setIndex 0x0050 (placed 0xF465))) 5 = 0x00 := by decide

/-! ### The tick -/

/-- T30-14: an unknown word is a full tick. -/
theorem test_unknown_word : (after (setDelay 5 (setSound 1 (placed 0x5AB1)))).out = ⟨true, none, some (0x0200, 0x5AB1)⟩ ∧
    (after (setDelay 5 (setSound 1 (placed 0x5AB1)))).pc = 0x0202 ∧
    (after (setDelay 5 (setSound 1 (placed 0x5AB1)))).dt = 4 := by decide

/-- T30-15: the fetch straddles the end of memory. -/
theorem test_fetch_wraps : readReg (after ((setPc 0x0FFF State.reset).withFetchWord 16 0x6A42)) 0xA = 0x42 ∧
    (after ((setPc 0x0FFF State.reset).withFetchWord 16 0x6A42)).pc = 0x1001 := by decide

/-- T45-02: events before `Quit` are applied, those after it are not. -/
theorem test_quit : (after (withEvents [.keyDown 1, .quit, .keyDown 2] (placed 0x6A42))).run = .quit ∧
    keyPressed (after (withEvents [.keyDown 1, .quit, .keyDown 2] (placed 0x6A42))) 1 = true ∧
    keyPressed (after (withEvents [.keyDown 1, .quit, .keyDown 2] (placed 0x6A42))) 2 = false ∧
    (after (withEvents [.keyDown 1, .quit, .keyDown 2] (placed 0x6A42))).pc = 0x0200 := by decide

/-- L-02 and Z-01: a byte is loaded at 0x200, and reset takes it away. -/
theorem test_load_and_reset :
    (match boot defaultParams [0xAB] with
     | .ok s => readByte s 0x200 == 0xAB && readByte (resetMachine s) 0x200 == 0x00
     | .error _ => false) = true := by decide

/-- R170's codes. -/
theorem test_error_codes : errorCode (RunState.error (.halted .stackOverflow)) = 2 ∧
    errorCode (RunState.error .quit) = 0 ∧ errorCode (some .loadTooLarge) = 4 := by decide

/-! ### Witnesses: for every statement with hypotheses, a state and operands that meet them, clause by clause -/

theorem witness_EncodeOfDecodedIsTheWord : decode 0xFF65 = .instr (.loadRegs 0xF) := by decide

theorem witness_DecoderFollowsTheOpcodeMap :
    (⟨"8XYE", 0xF00F, 0x800E⟩ : OpcodeRow) ∈ opcodeRows ∧ (0x8FFE : Word) &&& 0xF00F = 0x800E := by decide

theorem witness_UnknownWordsAreTheListedOnes : decode 0x800F = .unknownOpcode 0x800F := by decide

theorem witness_StepRunsTheDecodedInstruction :
    (placed 0x6A42).run = .running ∧ (inputPhase (placed 0x6A42)).run = .running ∧
    decodeBytes [readByte (inputPhase (placed 0x6A42)) (wrapAddr (placed 0x6A42).pc 0),
      readByte (inputPhase (placed 0x6A42)) (wrapAddr (placed 0x6A42).pc 1)] = .word (.instr (.ldImm 0xA 0x42)) := by
  decide

/-- A tick that still runs after `exec`, and one that does not. -/
theorem witness_StepRunsTheDecodedInstruction_clauses :
    (nextOf (exec .cls State.reset) State.reset).run = .running ∧
    (nextOf (exec .ret State.reset) State.reset).run ≠ .running := by decide

theorem witness_UnknownWordIsReportedAndSkipped :
    (placed 0xFFFF).run = .running ∧ (inputPhase (placed 0xFFFF)).run = .running ∧
    decode (fetch (inputPhase (placed 0xFFFF))) = .unknownOpcode 0xFFFF := by decide

theorem witness_QuitEndsTheTickBeforeTheFetch :
    (withEvents ([.keyDown 1] ++ .quit :: [.keyDown 2]) State.reset).run = .running ∧
    (withEvents ([.keyDown 1] ++ .quit :: [.keyDown 2]) State.reset).inputs =
      ⟨[.keyDown 1] ++ .quit :: [.keyDown 2], none⟩ :: [] ∧ Event.quit ∉ [Event.keyDown 1] := by decide

theorem witness_LastEventSetsTheKeyLevel :
    Event.quit ∉ [Event.keyDown 0, .keyUp 0, .keyDown 0xF] ∧
    keyPressed (consumeEvents [.keyDown 0, .keyUp 0, .keyDown 0xF] State.reset) 0 = false ∧
    keyPressed (consumeEvents [.keyDown 0, .keyUp 0, .keyDown 0xF] State.reset) 0xF = true := by decide

theorem witness_NewKeyIsTheFirstTransition :
    State.reset.newKey = none ∧ Event.quit ∉ [Event.keyDown 0xC, .keyDown 1] ∧
    (consumeEvents [.keyDown 0xC, .keyDown 1] State.reset).newKey = some 0xC := by decide

theorem witness_TickIsDefinedExactlyWhenRunning :
    State.reset.run = .running ∧ ({ State.reset with run := .quit } : State).run ≠ .running ∧
    (raiseFatal .stackOverflow State.reset).run ≠ .running := by decide

/-- Each of the three ways a run ends, and a tick after which it goes on. -/
theorem witness_OnlyQuitOrStackFaultStopsTheMachine :
    (step (withEvents [.quit] State.reset) = .next (after (withEvents [.quit] State.reset)) ∧
      step (setSp (some 15) (placed 0x2300)) = .next (after (setSp (some 15) (placed 0x2300))) ∧
      step (placed 0x00EE) = .next (after (placed 0x00EE)) ∧ step (placed 0x1200) = .next (after (placed 0x1200))) ∧
    (after (placed 0x1200)).run = .running ∧
    (after (withEvents [.quit] State.reset)).run = .quit ∧
    (after (setSp (some 15) (placed 0x2300))).run = .halted .stackOverflow ∧
    (after (placed 0x00EE)).run = .halted .stackUnderflow := ⟨⟨rfl, rfl, rfl, rfl⟩, by decide⟩

/-- A tick that completes from the last timer value. -/
theorem witness_TimersCountDownOncePerTick :
    (step (setSound 1 (placed 0x1200)) = .next (after (setSound 1 (placed 0x1200))) ∧
      execDecoded (decode (fetch (inputPhase (setSound 1 (placed 0x1200))))) (inputPhase (setSound 1 (placed 0x1200))) =
        .next (nextOf (exec (.jp 0x200) (inputPhase (setSound 1 (placed 0x1200)))) State.reset)) ∧
    (inputPhase (setSound 1 (placed 0x1200))).run = .running ∧
    (nextOf (exec (.jp 0x200) (inputPhase (setSound 1 (placed 0x1200)))) State.reset).run = .running :=
  ⟨⟨rfl, rfl⟩, by decide⟩

/-- A tick of each display instruction, and one that publishes nothing. -/
theorem witness_FramePublishedExactlyByDisplayInstructions :
    (step (placed 0xD010) = .next (after (placed 0xD010)) ∧ step (placed 0x00E0) = .next (after (placed 0x00E0)) ∧
      step (placed 0x6000) = .next (after (placed 0x6000))) ∧
    (placed 0xD010).dirty = false ∧ (after (placed 0xD010)).out.frame.isSome = true ∧
    (after (placed 0x00E0)).out.frame.isSome = true ∧ (after (placed 0x6000)).out.frame = none :=
  ⟨⟨rfl, rfl, rfl⟩, by decide⟩

theorem placed_out (w : Nat) : (placed w).out = Outputs.none := rfl

theorem placed_wf (w : Nat) : Memory.wf (placed w).font (placed w).mem :=
  storeBytes_wf _ _ _ _ (reset_mem_wf defaultParams)

theorem placed_betweenTicks (w : Nat) : BetweenTicks (placed w) := by
  refine ⟨placed_wf w, rfl, rfl, rfl, rfl, fun h => absurd rfl h, ?_, ?_, ?_⟩
  · intro f h; exact absurd h (by simp [placed_out])
  · intro h; exact absurd h (by simp [placed_out])
  · intro p q h; exact absurd h (by simp [placed_out])

theorem witness_EveryStepKeepsInv :
    BetweenTicks (placed 0x00E0) ∧ step (placed 0x00E0) = .next (after (placed 0x00E0)) :=
  ⟨placed_betweenTicks _, rfl⟩

theorem witness_ResetMeetsInv : WellFormed.params ⟨1, 1, Vector.replicate 80 0⟩ = true := by decide

/-- An instruction, a tick and a load that answer, on a machine of 2 by 1 pixels. -/
theorem witness_ParametersNeverChange :
    exec (.drw 0 0 1) (State.resetWith ⟨2, 1, defaultFont⟩) =
      .next (nextOf (exec (.drw 0 0 1) (State.resetWith ⟨2, 1, defaultFont⟩)) State.reset) ∧
    step (State.resetWith ⟨2, 1, defaultFont⟩) = .next (after (State.resetWith ⟨2, 1, defaultFont⟩)) ∧
    loadProgram [0xAB] (State.resetWith ⟨2, 1, defaultFont⟩) =
      .ok (writeByte 0x200 0xAB (State.resetWith ⟨2, 1, defaultFont⟩)) := ⟨rfl, rfl, rfl⟩

theorem witness_KeyWaitIsAFullTick :
    (placed 0xF30A).run = .running ∧ (placed 0xF30A).dirty = false ∧ (inputPhase (placed 0xF30A)).run = .running ∧
    decode (fetch (inputPhase (placed 0xF30A))) = .instr (.ldVxK 3) ∧ (inputPhase (placed 0xF30A)).newKey = none := by
  decide

/-- The largest program that fits and the smallest that does not; the first and the last address outside it. -/
theorem witness_LoaderCopiesTheProgramVerbatim :
    3584 < (List.replicate 3585 (0 : Byte)).length ∧ (List.replicate 3584 (0 : Byte)).length ≤ 3584 ∧
    3583 < (List.replicate 3584 (0 : Byte)).length ∧ (0x1FF : Addr).toNat < 0x200 ∧
    0x200 + ([0xAB] : List Byte).length ≤ (0x201 : Addr).toNat := by
  simp only [List.length_replicate]; decide

/-- `FX55` with `x` = 1 stores the word at 0xFFF and 0x000; `pc` is 0x1FFF, which fetches there. -/
theorem witness_StoredWordIsFetched :
    exec (.storeRegs 1) (setIndex 0xFFF State.reset) =
      .next (nextOf (exec (.storeRegs 1) (setIndex 0xFFF State.reset)) State.reset) ∧ 0 + 1 ≤ (1 : Nibble).toNat ∧
    (∀ a, readByte (setPc 0x1FFF (nextOf (exec (.storeRegs 1) (setIndex 0xFFF State.reset)) State.reset)) a =
      readByte (nextOf (exec (.storeRegs 1) (setIndex 0xFFF State.reset)) State.reset) a) ∧
    wrapAddr (setPc 0x1FFF (nextOf (exec (.storeRegs 1) (setIndex 0xFFF State.reset)) State.reset)).pc 0 =
      dataAddr (setIndex 0xFFF State.reset) 0 := ⟨rfl, by decide, fun _ => rfl, by decide⟩

/-- `exec` answers a next state: it meets the hypothesis of every rule over all instructions. -/
theorem witness_exec_next : exec (.ldImm 0 1) State.reset = .next (nextOf (exec (.ldImm 0 1) State.reset) State.reset) :=
  rfl

theorem witness_OnlyBcdAndDumpWriteMemory : (∀ x, Instr.loadRegs 0xF ≠ .ldB x) ∧ ∀ x, Instr.loadRegs 0xF ≠ .storeRegs x :=
  ⟨by simp, by simp⟩

theorem witness_RegistersWrittenAreThoseOfTheTable :
    (0xE : Nibble) ∉ regsWritten (.addReg 0xD 0) ∧ (0x3 : Nibble) ∉ regsWritten (.loadRegs 2) ∧
    (0x2 : Nibble) ∈ regsWritten (.loadRegs 2) := by decide

theorem witness_FlagWrittenByExactlySixInstructions :
    writesFlag (.addReg 0xF 0xF) = true ∧ writesFlag (.loadRegs 0xE) = false ∧ vf ∉ regsWritten (.loadRegs 0xE) := by
  decide

/-- An instruction that meets the hypotheses of every clause at once. -/
theorem witness_ControlStateWrittenByListedInstructions :
    (∀ nnn, Instr.seReg 0 0 ≠ .ldI nnn) ∧ (∀ x, Instr.seReg 0 0 ≠ .addI x) ∧ (∀ x, Instr.seReg 0 0 ≠ .ldF x) ∧
    Instr.seReg 0 0 ≠ .ret ∧ (∀ nnn, Instr.seReg 0 0 ≠ .call nnn) ∧ (∀ x, Instr.seReg 0 0 ≠ .ldDTVx x) ∧
    (∀ x, Instr.seReg 0 0 ≠ .ldSTVx x) ∧ Instr.seReg 0 0 ≠ .cls ∧ ∀ x y n, Instr.seReg 0 0 ≠ .drw x y n := by
  simp

/-- `CALL` at depths 15 and 16, `RET` at depths 0 and 1, and a tick. -/
theorem witness_StackPointerMovesByOneOrNot :
    (exec (.call 0x300) (setSp (some 14) State.reset) =
        .next (nextOf (exec (.call 0x300) (setSp (some 14) State.reset)) State.reset) ∧
      exec (.call 0x300) (setSp (some 15) State.reset) =
        .next (nextOf (exec (.call 0x300) (setSp (some 15) State.reset)) State.reset) ∧
      exec .ret State.reset = .next (nextOf (exec .ret State.reset) State.reset) ∧
      exec .ret (setSp (some 0) State.reset) = .next (nextOf (exec .ret (setSp (some 0) State.reset)) State.reset)) ∧
    depth (setSp (some 14) State.reset).sp = 15 ∧ depth (setSp (some 15) State.reset).sp = 16 ∧
    depth State.reset.sp = 0 ∧ depth (setSp (some 0) State.reset).sp = 1 ∧
    step (placed 0x2300) = .next (after (placed 0x2300)) := ⟨⟨rfl, rfl, rfl, rfl⟩, by decide, by decide, by decide, by decide, rfl⟩

theorem witness_EvenProgramCounterIsKept :
    EvenPc (pushAt 0 0x0206 State.reset) ∧ EvenTarget .ret (pushAt 0 0x0206 State.reset) ∧
    EvenTarget (.jp 0xFFE) (pushAt 0 0x0206 State.reset) ∧
    exec .ret (pushAt 0 0x0206 State.reset) =
      .next (nextOf (exec .ret (pushAt 0 0x0206 State.reset)) State.reset) := by
  refine ⟨⟨by decide, ?_⟩, trivial, rfl, rfl⟩
  intro j h hd
  have : j = 0 := by
    simp [depth] at hd; omega
  subst this
  exact (rfl : (0x0206 : Word).toNat % 2 = 0)

theorem witness_TickInputsReadOnlyByTheirInstructions :
    (∀ x nn, Instr.ldVxK 0 ≠ .rnd x nn) ∧ ∀ x, Instr.rnd 0 0 ≠ .ldVxK x :=
  ⟨by simp, by simp⟩

/-- The flag rules: `x` is not the flag register, the carry is set and is not, the borrow is and is not. -/
theorem witness_flag_clauses :
    (0xE : Nibble) ≠ vf ∧ 0xFF + 0x01 > 255 ∧ ¬0xFF + 0x00 > 255 ∧ 5 ≥ 5 ∧ ¬4 ≥ 5 := by decide

theorem witness_RandomByteIsMasked : ({ State.reset with draw := some 0xFF } : State).draw = some 0xFF := rfl

theorem witness_CallPushesTheReturnAddress :
    depth (setSp (some 15) State.reset).sp = 16 ∧ depth (setSp (some 14) State.reset).sp < 16 ∧
    depth State.reset.sp < 16 := by decide

theorem witness_ReturnPopsTheTopEntry :
    depth State.reset.sp = 0 ∧ depth (setSp (some 0) State.reset).sp = 0 + 1 ∧
    depth (setSp (some 15) State.reset).sp = 15 + 1 := by decide

theorem witness_CallThenReturnComesBack :
    depth (setSp (some 14) State.reset).sp ≤ 15 ∧
    (nextOf (exec (.call 0x300) (setSp (some 14) State.reset)) State.reset).sp = some 15 := by decide

theorem witness_ComparisonsSkipOneInstruction :
    readReg State.reset 1 = 0x00 ∧ readReg State.reset 1 ≠ 0x01 ∧ readReg State.reset 1 = readReg State.reset 2 ∧
    readReg (writeReg 1 7 State.reset) 1 ≠ readReg (writeReg 1 7 State.reset) 2 := by decide

theorem witness_StackFaultHaltsTheMachine :
    (setSp (some 15) (placed 0x2300)).run = .running ∧ (inputPhase (setSp (some 15) (placed 0x2300))).run = .running ∧
    depth (setSp (some 15) (placed 0x2300)).sp = 16 ∧
    decode (fetch (inputPhase (setSp (some 15) (placed 0x2300)))) = .instr (.call 0x300) ∧
    (placed 0x00EE).run = .running ∧ (inputPhase (placed 0x00EE)).run = .running ∧ depth (placed 0x00EE).sp = 0 ∧
    decode (fetch (inputPhase (placed 0x00EE))) = .instr .ret := by decide

/-- R122 on a display of 2 by 1: of the sprite 0xA0 both 1 bits land on the first pixel, off and then on again. -/
theorem witness_DrawTogglesOncePerSpriteBit :
    (spritePixels (setIndex 0x300 (writeByte 0x300 0xA0 (State.resetWith ⟨2, 1, defaultFont⟩))) 0 0 1).count (0, 0) = 2 ∧
    (spritePixels (setIndex 0x300 (writeByte 0x300 0xA0 (State.resetWith ⟨2, 1, defaultFont⟩))) 0 0 1).count (1, 0) = 0 ∧
    readReg (nextOf (exec (.drw 0 0 1) (setIndex 0x300 (writeByte 0x300 0xA0 (State.resetWith ⟨2, 1, defaultFont⟩))))
      State.reset) vf = 1 := by decide

/-- The default display and the smallest that R123 names meet the sizes asked for the largest sprite. -/
theorem witness_DrawInvertsTheCoveredPixels_sizes :
    8 ≤ State.reset.display.width ∧ (0xF : Nibble).toNat ≤ State.reset.display.height ∧
    8 ≤ (State.resetWith ⟨8, 15, defaultFont⟩).display.width ∧
    (0xF : Nibble).toNat ≤ (State.resetWith ⟨8, 15, defaultFont⟩).display.height := by decide

/-- The sprite 0x80 at (63, 31), one row: it covers that pixel and not its neighbour. -/
theorem witness_DrawInvertsTheCoveredPixels :
    SpriteCovers (writeReg 0 63 (writeReg 1 31 (setIndex 0x300 (writeByte 0x300 0x80 State.reset)))) 0 1 1 63 31 ∧
    ¬SpriteCovers (writeReg 0 63 (writeReg 1 31 (setIndex 0x300 (writeByte 0x300 0x80 State.reset)))) 0 1 0 63 31 :=
  ⟨⟨0, by decide, 0, by decide, by decide, by decide, by decide⟩, fun ⟨_, h, _⟩ => absurd h (Nat.not_lt_zero _)⟩

/-- A covered pixel that is on, and a display where none is. -/
theorem witness_DrawInvertsTheCoveredPixels_collision :
    pixelAt (togglePixel (blankDisplay 64 32) 63 31) 63 31 = true ∧ pixelAt (blankDisplay 64 32) 63 31 = false := by decide

theorem witness_DrawingTwiceRestoresTheDisplay :
    (0 : Nibble) ≠ vf ∧ (1 : Nibble) ≠ vf ∧
    exec (.drw 0 1 1) (setIndex 0x300 (writeByte 0x300 0x80 State.reset)) =
      .next (nextOf (exec (.drw 0 1 1) (setIndex 0x300 (writeByte 0x300 0x80 State.reset))) State.reset) ∧
    (setIndex 0x300 (writeByte 0x300 0x80 State.reset)).display = blankDisplay 64 32 ∧
    ∃ px < 64, ∃ py < 32, SpriteCovers (setIndex 0x300 (writeByte 0x300 0x80 State.reset)) 0 1 1 px py :=
  ⟨by decide, by decide, rfl, rfl, 0, by decide, 0, by decide, 0, by decide, 0, by decide, by decide, by decide, by decide⟩

theorem witness_KeySkipsTestTheKeyLevel :
    (0xF : Nibble).toNat = (readReg (writeReg 1 0xFF State.reset) 1).toNat % 16 ∧
    keyPressed (setKey 0xF true State.reset) 0xF = true ∧ keyPressed State.reset 0xF = false := by decide

theorem witness_KeyWaitStoresTheNewKey :
    State.reset.newKey = none ∧ ({ State.reset with newKey := some 0xF } : State).newKey = some 0xF := ⟨rfl, rfl⟩

/-- The last register of the range, and the first above it. -/
theorem witness_register_ranges : (0xF : Nat) ≤ (0xF : Nibble).toNat ∧ (0 : Nat) ≤ (0 : Nibble).toNat ∧
    (1 : Nibble) ∉ (List.range ((0 : Nibble).toNat + 1)).map (BitVec.ofNat 4) := by decide

theorem witness_LoadAfterDumpRestoresRegisters :
    exec (.storeRegs 0xF) (setIndex 0xFFF State.reset) =
      .next (nextOf (exec (.storeRegs 0xF) (setIndex 0xFFF State.reset)) State.reset) ∧
    (writeReg 3 0x99 (nextOf (exec (.storeRegs 0xF) (setIndex 0xFFF State.reset)) State.reset)).i =
      (setIndex 0xFFF State.reset).i ∧
    (∀ a, readByte (writeReg 3 0x99 (nextOf (exec (.storeRegs 0xF) (setIndex 0xFFF State.reset)) State.reset)) a =
      readByte (nextOf (exec (.storeRegs 0xF) (setIndex 0xFFF State.reset)) State.reset) a) ∧
    (0xF : Nibble).toNat ≤ (0xF : Nibble).toNat := ⟨rfl, rfl, fun _ => rfl, by decide⟩

end Sys2Proof.Tests
end

/-! ## The parameters of a machine never change (00_scope.md R5) -/

namespace Sys2Proof.Machine

/-! ### One rule per shared operation -/

/-- The parameters live in the display's size and the font, so what leaves these alone keeps the parameters. -/
theorem params_eq_of_size_font {s t : State} (hw : t.display.width = s.display.width)
    (hh : t.display.height = s.display.height) (hf : t.font = s.font) : t.params = s.params := by
  simp only [State.params, hw, hh, hf]

@[simp] theorem storeBytes_params (base : Word) (k : Nat) (bs : List Byte) (s : State) :
    (storeBytes base k bs s).params = s.params := by
  obtain ⟨m, h⟩ := storeBytes_frame base k bs s
  rw [h]; rfl

@[simp] theorem loadRegsFrom_params (k : Nat) (bs : List Byte) (s : State) :
    (loadRegsFrom k bs s).params = s.params := by
  obtain ⟨v, h⟩ := loadRegsFrom_frame k bs s
  rw [h]; rfl

@[simp] theorem inputPhase_params (s : State) : (inputPhase s).params = s.params := by
  obtain ⟨ks, nk, r, h, -⟩ := inputPhase_frame s
  rw [h]; rfl

@[simp] theorem publishPhase_params (s : State) : (publishPhase s).params = s.params := by
  unfold publishPhase
  split <;> rfl

@[simp] theorem finishTick_params (s : State) : (finishTick s).params = s.params := by
  by_cases h : s.run = .running
  · rw [finishTick_running s h]
    exact publishPhase_params (timerPhase s)
  · rw [finishTick_stopped s h]; rfl

/-! ### Instructions, ticks and loads -/

/-- No instruction changes the parameters: `00E0` and `DXYN` replace the display by one of its own size, and no other
instruction writes the display or the font (R5, R121, R122). -/
theorem exec_params {i : Instr} {s t : State} (h : exec i s = .next t) : t.params = s.params := by
  cases i
  case drw x y n =>
    cases h
    obtain ⟨hw, hh⟩ := drawSprite_size s.display (readReg s x) (readReg s y)
      (fun k => readByte s (dataAddr s k)) n.toNat
    exact params_eq_of_size_font hw hh rfl
  case ret => simp only [exec, execRet] at h; split at h <;> cases h <;> rfl
  case call nnn => simp only [exec, execCall] at h; split at h <;> cases h <;> rfl
  case ldVxK x => simp only [exec, execLdVxK] at h; split at h <;> cases h <;> rfl
  case ldB x => cases h; exact storeBytes_params _ _ _ s
  case storeRegs x => cases h; exact storeBytes_params _ _ _ s
  case loadRegs x => cases h; exact loadRegsFrom_params _ _ s
  all_goals cases h; rfl

theorem execDecoded_params {d : Decoded} {s t : State} (h : execDecoded d s = .next t) : t.params = s.params := by
  cases d with
  | instr i => exact exec_params h
  | unknownOpcode w => cases h; rfl

theorem step_params {s t : State} (h : step s = .next t) : t.params = s.params := by
  obtain ⟨-, ⟨-, rfl⟩ | ⟨-, u, hu, rfl⟩⟩ := step_cases h
  · exact inputPhase_params s
  · calc (finishTick u).params = u.params := finishTick_params u
      _ = (inputPhase s).params := execDecoded_params hu
      _ = s.params := inputPhase_params s

/-- A load that answers is within the limit of R52 and has only stored the program's bytes. -/
theorem loadProgram_ok {bytes : List Byte} {s t : State} (h : loadProgram bytes s = .ok t) :
    bytes.length ≤ Config.progMax ∧ t = storeBytes (BitVec.ofNat 16 Config.progBase) 0 bytes s := by
  unfold loadProgram at h
  split at h
  · cases h
  · rename_i hlen; cases h; exact ⟨Nat.le_of_not_gt hlen, rfl⟩

theorem loadProgram_params {bytes : List Byte} {s t : State} (h : loadProgram bytes s = .ok t) :
    t.params = s.params := by
  obtain ⟨-, rfl⟩ := loadProgram_ok h
  exact storeBytes_params _ _ _ s

/-! ### Creation and reset -/

@[simp] theorem resetWith_params (p : Params) : (State.resetWith p).params = p := rfl

@[simp] theorem resetMachine_params (s : State) : (resetMachine s).params = s.params := rfl

/-- Settles O58: every operation leaves the display's size and the font alone, and creation sets them from its
parameters. -/
theorem parametersNeverChange : Obligations.ParametersNeverChange :=
  ⟨fun _ _ _ => exec_params, fun _ _ => step_params, fun _ _ _ => loadProgram_params, resetMachine_params,
    resetWith_params, resetWith_params defaultParams⟩

end Sys2Proof.Machine

/-! ## What every instruction may change, and where it leaves `pc` (10_state.md) -/

namespace Sys2Proof.Machine

open Sys2Proof.Safety

/-! ### The depth of the call stack (R19) -/

theorem depth_le (p : Option (Fin 16)) : depth p ≤ 16 := by
  cases p with
  | none => exact Nat.zero_le _
  | some j => exact j.isLt

theorem depth_eq_zero_iff (p : Option (Fin 16)) : depth p = 0 ↔ p = none := by
  cases p <;> simp [depth]

/-- A next free entry is missing exactly when all 16 are live (R103). -/
theorem nextSlot_eq_none_iff (p : Option (Fin 16)) : nextSlot p = none ↔ depth p = 16 := by
  cases p with
  | none => simp [nextSlot, depth]
  | some j => simp only [nextSlot, depth, dite_eq_right_iff, reduceCtorEq, imp_false]; omega

/-- The next free entry is one above the live ones. -/
theorem depth_of_nextSlot {p : Option (Fin 16)} {j : Fin 16} (h : nextSlot p = some j) :
    depth (some j) = depth p + 1 := by
  cases p with
  | none => cases h; rfl
  | some k =>
    simp only [nextSlot] at h
    split at h
    · cases h; rfl
    · cases h

/-- Below entry `j` there are `j` live entries (R104). -/
theorem depth_slotBelow (j : Fin 16) : depth (slotBelow j) = j.val := by
  unfold slotBelow
  split
  · rename_i h0; exact h0.symm
  · exact Nat.sub_add_cancel (by omega)

/-! ### The three instructions with more than one outcome -/

/-- `2NNN` faults when the stack is full and pushes otherwise (R103). -/
theorem exec_call_cases {nnn : Addr} {s t : State} (h : exec (.call nnn) s = .next t) :
    (depth s.sp = 16 ∧ t = raiseFatal .stackOverflow s) ∨
      ∃ j, nextSlot s.sp = some j ∧ t = setPc (addrOperand nnn) (pushAt j (s.pc + 2) s) := by
  simp only [exec, execCall] at h
  split at h <;> cases h
  · rename_i hn; exact .inl ⟨(nextSlot_eq_none_iff _).1 hn, rfl⟩
  · rename_i j hj; exact .inr ⟨j, hj, rfl⟩

/-- `00EE` faults when the stack is empty and pops otherwise (R104). -/
theorem exec_ret_cases {s t : State} (h : exec .ret s = .next t) :
    (s.sp = none ∧ t = raiseFatal .stackUnderflow s) ∨
      ∃ j, s.sp = some j ∧ t = setSp (slotBelow j) (setPc (s.stack[j.val]'j.isLt) s) := by
  simp only [exec, execRet] at h
  split at h <;> cases h
  · rename_i hn; exact .inl ⟨hn, rfl⟩
  · rename_i j hj; exact .inr ⟨j, hj, rfl⟩

/-- `FX0A` waits without a new press and takes the key otherwise (R135). -/
theorem exec_ldVxK_cases {x : Nibble} {s t : State} (h : exec (.ldVxK x) s = .next t) :
    (s.newKey = none ∧ t = s) ∨ ∃ k, s.newKey = some k ∧ t = advance (writeReg x (keyByte k) s) := by
  simp only [exec, execLdVxK] at h
  split at h <;> cases h
  · rename_i hn; exact .inl ⟨hn, rfl⟩
  · rename_i k hk; exact .inr ⟨k, hk, rfl⟩

end Sys2Proof.Machine

namespace Sys2Proof.Safety

open Sys2Proof.Machine

/-! ### One frame rule per state operation: it stays in every footprint that allows it -/

section

variable {fp : Footprint} {s t : State}

theorem Unchanged.refl (fp : Footprint) (s : State) : Unchanged fp s s := by simp [Unchanged]

/-- No footprint speaks of `pc`. -/
theorem Unchanged.after_setPc (h : Unchanged fp s t) (w : Word) : Unchanged fp s (setPc w t) := h

theorem Unchanged.after_advance (h : Unchanged fp s t) : Unchanged fp s (advance t) := h

theorem Unchanged.after_skipIf (h : Unchanged fp s t) (c : Bool) : Unchanged fp s (skipIf c t) := h

theorem Unchanged.after_writeReg (h : Unchanged fp s t) {r : Nibble} (hr : r ∈ fp.regs) (b : Byte) :
    Unchanged fp s (writeReg r b t) := by
  obtain ⟨hregs, hrest⟩ := h
  refine ⟨fun q hq => ?_, hrest⟩
  have hne : q ≠ r := fun e => hq (e ▸ hr)
  rw [readReg_writeReg, if_neg hne, hregs q hq]

theorem Unchanged.after_writeByte (h : Unchanged fp s t) {a : Addr} (ha : a ∈ fp.mem) (b : Byte) :
    Unchanged fp s (writeByte a b t) := by
  obtain ⟨hregs, hmem, hrest⟩ := h
  refine ⟨hregs, fun c hc => ?_, hrest⟩
  have hne : c ≠ a := fun e => hc (e ▸ ha)
  rw [readByte_writeByte, if_neg hne, hmem c hc]

theorem Unchanged.after_setIndex (h : Unchanged fp s t) (hi : fp.index = true) (w : Word) :
    Unchanged fp s (setIndex w t) := by
  obtain ⟨hregs, hmem, -, hrest⟩ := h
  exact ⟨hregs, hmem, by simp [hi], hrest⟩

theorem Unchanged.after_pushAt (h : Unchanged fp s t) (hs : fp.stack = true) (j : Fin 16) (w : Word) :
    Unchanged fp s (pushAt j w t) := by
  obtain ⟨hregs, hmem, hi, -, hrest⟩ := h
  exact ⟨hregs, hmem, hi, by simp [hs], hrest⟩

theorem Unchanged.after_setSp (h : Unchanged fp s t) (hs : fp.stack = true) (p : Option (Fin 16)) :
    Unchanged fp s (setSp p t) := by
  obtain ⟨hregs, hmem, hi, -, hrest⟩ := h
  exact ⟨hregs, hmem, hi, by simp [hs], hrest⟩

theorem Unchanged.after_setDelay (h : Unchanged fp s t) (hd : fp.delay = true) (b : Byte) :
    Unchanged fp s (setDelay b t) := by
  obtain ⟨hregs, hmem, hi, hstack, -, hrest⟩ := h
  exact ⟨hregs, hmem, hi, hstack, by simp [hd], hrest⟩

theorem Unchanged.after_setSound (h : Unchanged fp s t) (hs : fp.sound = true) (b : Byte) :
    Unchanged fp s (setSound b t) := by
  obtain ⟨hregs, hmem, hi, hstack, hdt, -, hrest⟩ := h
  exact ⟨hregs, hmem, hi, hstack, hdt, by simp [hs], hrest⟩

/-- The new display has the old one's size, so the parameters stay (R5). -/
theorem Unchanged.after_setDisplay (h : Unchanged fp s t) (hf : fp.display = true) {d : Display}
    (hd : d.width = t.display.width ∧ d.height = t.display.height) : Unchanged fp s (setDisplay d t) := by
  obtain ⟨hregs, hmem, hi, hstack, hdt, hst, -, hrun, hkeys, hparams, hown⟩ := h
  have hkeep : (setDisplay d t).params = t.params := params_eq_of_size_font hd.1 hd.2 rfl
  exact ⟨hregs, hmem, hi, hstack, hdt, hst, by simp [hf], hrun, hkeys, hkeep.trans hparams, hown⟩

theorem Unchanged.after_raiseFatal (h : Unchanged fp s t) (hr : fp.run = true) (e : FatalError) :
    Unchanged fp s (raiseFatal e t) := by
  obtain ⟨hregs, hmem, hi, hstack, hdt, hst, hdisplay, -, hrest⟩ := h
  exact ⟨hregs, hmem, hi, hstack, hdt, hst, hdisplay, by simp [hr], hrest⟩

/-- A result and its flag: `V[x]` and `VF` (R94). -/
theorem Unchanged.after_writeRegFlag (h : Unchanged fp s t) {x : Nibble} (hx : x ∈ fp.regs) (hf : vf ∈ fp.regs)
    (b flag : Byte) : Unchanged fp s (writeRegFlag x b flag t) :=
  (h.after_writeReg hx b).after_writeReg hf flag

theorem Unchanged.after_storeBytes (h : Unchanged fp s t) (base : Word) (k : Nat) (bs : List Byte)
    (hm : ∀ j < bs.length, wrapAddr base (k + j) ∈ fp.mem) : Unchanged fp s (storeBytes base k bs t) := by
  induction bs generalizing k t with
  | nil => exact h
  | cons b bs ih =>
    refine ih (h.after_writeByte (hm 0 (Nat.zero_lt_succ _)) b) (k + 1) fun j hj => ?_
    rw [Nat.add_right_comm]
    exact hm (j + 1) (Nat.succ_lt_succ hj)

theorem Unchanged.after_loadRegsFrom (h : Unchanged fp s t) (k : Nat) (bs : List Byte)
    (hr : ∀ j < bs.length, BitVec.ofNat 4 (k + j) ∈ fp.regs) : Unchanged fp s (loadRegsFrom k bs t) := by
  induction bs generalizing k t with
  | nil => exact h
  | cons b bs ih =>
    refine ih (h.after_writeReg (hr 0 (Nat.zero_lt_succ _)) b) (k + 1) fun j hj => ?_
    rw [Nat.add_right_comm]
    exact hr (j + 1) (Nat.succ_lt_succ hj)

end

/-! ### The footprint of every instruction (R13, R31, R42) -/

/-- The memory an instruction may write, started in `s`: only `FX33` and `FX55` store (R42). -/
def memWritten : Instr → State → List Addr
  | .ldB _, s => [dataAddr s 0, dataAddr s 1, dataAddr s 2]
  | .storeRegs x, s => (List.range (x.toNat + 1)).map (dataAddr s)
  | _, _ => []

/-- What an instruction may change, started in `s`: the rows of R13 and R31. -/
def footprint (i : Instr) (s : State) : Footprint where
  regs := regsWritten i
  mem := memWritten i s
  index := match i with
    | .ldI _ | .addI _ | .ldF _ => true
    | _ => false
  stack := match i with
    | .call _ | .ret => true
    | _ => false
  delay := match i with
    | .ldDTVx _ => true
    | _ => false
  sound := match i with
    | .ldSTVx _ => true
    | _ => false
  display := match i with
    | .cls | .drw _ _ _ => true
    | _ => false
  run := match i with
    | .call _ | .ret => true
    | _ => false

/-- No instruction changes anything outside its footprint, `pc` excepted. -/
theorem exec_unchanged {i : Instr} {s t : State} (h : exec i s = .next t) : Unchanged (footprint i s) s t := by
  have start := Unchanged.refl (footprint i s) s
  cases i
  case cls => cases h; exact (start.after_setDisplay (d := blankDisplay _ _) rfl ⟨rfl, rfl⟩).after_advance
  case ret =>
    obtain ⟨-, rfl⟩ | ⟨j, -, rfl⟩ := exec_ret_cases h
    · exact start.after_raiseFatal rfl _
    · exact (start.after_setPc _).after_setSp rfl _
  case jp | jpV0 => cases h; exact start.after_setPc _
  case call nnn =>
    obtain ⟨-, rfl⟩ | ⟨j, -, rfl⟩ := exec_call_cases h
    · exact start.after_raiseFatal rfl _
    · exact (start.after_pushAt rfl j _).after_setPc _
  case seImm | sneImm | seReg | sneReg | skp | sknp => cases h; exact start.after_skipIf _
  case ldImm | addImm | ldReg | orReg | andReg | xorReg | rnd | ldVxDT =>
    cases h; exact (start.after_writeReg (List.mem_singleton_self _) _).after_advance
  case addReg | subReg | shr | subn | shl =>
    cases h
    exact (start.after_writeRegFlag List.mem_cons_self (List.mem_cons_of_mem _ List.mem_cons_self) _ _).after_advance
  case drw x y n =>
    cases h
    exact ((start.after_writeReg (List.mem_singleton_self vf) _).after_setDisplay rfl
      (drawSprite_size s.display _ _ (fun k => readByte s (dataAddr s k)) n.toNat)).after_advance
  case ldVxK x =>
    obtain ⟨-, rfl⟩ | ⟨k, -, rfl⟩ := exec_ldVxK_cases h
    · exact start
    · exact (start.after_writeReg (List.mem_singleton_self x) _).after_advance
  case ldI | addI | ldF => cases h; exact (start.after_setIndex rfl _).after_advance
  case ldDTVx => cases h; exact (start.after_setDelay rfl _).after_advance
  case ldSTVx => cases h; exact (start.after_setSound rfl _).after_advance
  case ldB x =>
    cases h
    refine (start.after_storeBytes s.i 0 (bcdDigits (readReg s x)) fun j hj => ?_).after_advance
    have hj3 : j < 3 := hj
    rw [Nat.zero_add]
    exact List.mem_map_of_mem (f := dataAddr s) (l := [0, 1, 2]) (by simp; omega)
  case storeRegs x =>
    cases h
    refine (start.after_storeBytes s.i 0 (regsUpTo s x) fun j hj => ?_).after_advance
    rw [Nat.zero_add]
    exact List.mem_map_of_mem (List.mem_range.2 (by simpa [regsUpTo] using hj))
  case loadRegs x =>
    cases h
    refine (start.after_loadRegsFrom 0 (bytesAtIndex s (x.toNat + 1)) fun j hj => ?_).after_advance
    rw [Nat.zero_add]
    exact List.mem_map_of_mem (List.mem_range.2 (by simpa [bytesAtIndex] using hj))

/-! ### Which instructions have a part of the state in their footprint -/

theorem footprint_index {i : Instr} {s : State} (hldI : ∀ nnn, i ≠ .ldI nnn) (haddI : ∀ x, i ≠ .addI x)
    (hldF : ∀ x, i ≠ .ldF x) : (footprint i s).index = false := by
  cases i
  case ldI nnn => exact absurd rfl (hldI nnn)
  case addI x => exact absurd rfl (haddI x)
  case ldF x => exact absurd rfl (hldF x)
  all_goals rfl

theorem footprint_stack_run {i : Instr} {s : State} (hret : i ≠ .ret) (hcall : ∀ nnn, i ≠ .call nnn) :
    (footprint i s).stack = false ∧ (footprint i s).run = false := by
  cases i
  case ret => exact absurd rfl hret
  case call nnn => exact absurd rfl (hcall nnn)
  all_goals exact ⟨rfl, rfl⟩

theorem footprint_delay {i : Instr} {s : State} (h : ∀ x, i ≠ .ldDTVx x) : (footprint i s).delay = false := by
  cases i
  case ldDTVx x => exact absurd rfl (h x)
  all_goals rfl

theorem footprint_sound {i : Instr} {s : State} (h : ∀ x, i ≠ .ldSTVx x) : (footprint i s).sound = false := by
  cases i
  case ldSTVx x => exact absurd rfl (h x)
  all_goals rfl

theorem footprint_display {i : Instr} {s : State} (hcls : i ≠ .cls) (hdrw : ∀ x y n, i ≠ .drw x y n) :
    (footprint i s).display = false := by
  cases i
  case cls => exact absurd rfl hcls
  case drw x y n => exact absurd rfl (hdrw x y n)
  all_goals rfl

/-- Settles O25: the register part of every instruction's footprint is its row of R13. -/
theorem registersWrittenAreThoseOfTheTable : Obligations.RegistersWrittenAreThoseOfTheTable := by
  intro i s t h r hr
  obtain ⟨hregs, -⟩ := exec_unchanged h
  exact hregs r hr

/-- Settles O28: each clause is one field of the footprint, false for the instructions R31 does not list. -/
theorem controlStateWrittenByListedInstructions : Obligations.ControlStateWrittenByListedInstructions := by
  intro i s t h
  obtain ⟨-, -, hi, hstack, hdt, hst, hdisplay, hrun, hkeys, -, hnewKey, hdraw, hinputs, hticks, hout⟩ :=
    exec_unchanged h
  refine ⟨fun hldI haddI hldF => hi (footprint_index hldI haddI hldF), fun hret hcall => ?_,
    fun hn => hdt (footprint_delay hn), fun hn => hst (footprint_sound hn),
    fun hcls hdrw => hdisplay (footprint_display hcls hdrw), hkeys, hinputs, hnewKey, hdraw, hticks, hout⟩
  obtain ⟨hfs, hfr⟩ := footprint_stack_run (s := s) hret hcall
  obtain ⟨hstk, hsp⟩ := hstack hfs
  exact ⟨hsp, hstk, hrun hfr⟩

/-! ### The flag register (R12) -/

theorem flagByte_cases (c : Bool) : flagByte c = 0x00 ∨ flagByte c = 0x01 := by
  cases c
  · exact .inl rfl
  · exact .inr rfl

/-- The flag is written last, so it stands in `VF` whatever `x` is (R94, D8). -/
theorem readReg_writeRegFlag_vf (x : Nibble) (b flag : Byte) (s : State) :
    readReg (writeRegFlag x b flag s) vf = flag := by simp

/-- A flag instruction leaves a flag in `VF`. -/
theorem exec_flag {i : Instr} {s t : State} (h : exec i s = .next t) (hf : writesFlag i = true) :
    ∃ c, readReg t vf = flagByte c := by
  cases i
  case addReg | subReg | shr | subn | shl => cases h; exact ⟨_, readReg_writeRegFlag_vf _ _ _ s⟩
  case drw x y n => cases h; exact ⟨_, by rw [advance_readReg, setDisplay_readReg, readReg_writeReg, if_pos rfl]⟩
  all_goals exact absurd hf Bool.false_ne_true

/-- Settles O26: a flag instruction leaves a flag in `VF`, any other one keeps `VF` by its row of R13. -/
theorem flagWrittenByExactlySixInstructions : Obligations.FlagWrittenByExactlySixInstructions := by
  refine fun i s t h => ⟨fun hf => ?_, fun _ hvf => registersWrittenAreThoseOfTheTable i s t h vf hvf⟩
  obtain ⟨c, hc⟩ := exec_flag h hf
  exact hc ▸ flagByte_cases c

/-! ### The program counter (R16, R17) -/

theorem toNat_pc_add (s : State) (d : Nat) : (s.pc + BitVec.ofNat 16 d).toNat = pcPlus s d := by
  simp [pcPlus]

theorem toNat_advance_pc (s : State) : (advance s).pc.toNat = pcPlus s 2 := toNat_pc_add s 2

theorem toNat_skipIf_pc (c : Bool) (s : State) :
    (skipIf c s).pc.toNat = if c = true then pcPlus s 4 else pcPlus s 2 := by
  cases c
  · exact toNat_pc_add s 2
  · exact toNat_pc_add s 4

/-- A 12-bit target is used as it stands (R100). -/
theorem toNat_addrOperand (nnn : Addr) : (addrOperand nnn).toNat = nnn.toNat :=
  BitVec.toNat_setWidth_of_le (by decide)

/-- A 12-bit target plus a byte stays below 65536, so `BNNN` does not wrap (R102, D23). -/
theorem toNat_addrOperand_add (nnn : Addr) (b : Byte) :
    (addrOperand nnn + zext16 b).toNat = nnn.toNat + b.toNat := by
  have hn := nnn.isLt
  have hb := b.isLt
  rw [BitVec.toNat_add, toNat_addrOperand, zext16, BitVec.toNat_setWidth_of_le (by decide), Nat.mod_eq_of_lt (by omega)]

/-- `2NNN` goes to its target, and stays on overflow. -/
theorem exec_call_pc {nnn : Addr} {s t : State} (h : exec (.call nnn) s = .next t) :
    t.pc.toNat = pcAfter (.call nnn) s := by
  obtain ⟨hfull, rfl⟩ | ⟨j, hj, rfl⟩ := exec_call_cases h
  · exact (if_pos hfull).symm
  · have hfree : depth s.sp ≠ 16 := fun e => by
      rw [(nextSlot_eq_none_iff _).2 e] at hj; cases hj
    exact (toNat_addrOperand nnn).trans (if_neg hfree).symm

/-- `00EE` goes to the popped entry, and stays on underflow. -/
theorem exec_ret_pc {s t : State} (h : exec .ret s = .next t) : t.pc.toNat = pcAfter .ret s := by
  obtain ⟨hsp, rfl⟩ | ⟨j, hsp, rfl⟩ := exec_ret_cases h <;> simp [pcAfter, hsp]

/-- `FX0A` goes on when a key came and stays while it waits. -/
theorem exec_ldVxK_pc {x : Nibble} {s t : State} (h : exec (.ldVxK x) s = .next t) :
    t.pc.toNat = pcAfter (.ldVxK x) s := by
  obtain ⟨hk, rfl⟩ | ⟨k, hk, rfl⟩ := exec_ldVxK_cases h
  · exact (if_pos hk).symm
  · exact (toNat_advance_pc _).trans (if_neg (by simp [hk])).symm

/-- `pc` after an instruction is its row of R16. -/
theorem exec_pc {i : Instr} {s t : State} (h : exec i s = .next t) : t.pc.toNat = pcAfter i s := by
  cases i
  case call nnn => exact exec_call_pc h
  case ret => exact exec_ret_pc h
  case ldVxK x => exact exec_ldVxK_pc h
  case jp nnn => cases h; exact toNat_addrOperand nnn
  case jpV0 nnn => cases h; exact toNat_addrOperand_add nnn _
  case seImm | sneImm | seReg | sneReg | skp | sknp =>
    cases h; rw [toNat_skipIf_pc]; simp [pcAfter]
  case ldB | storeRegs | loadRegs => cases h; rw [toNat_advance_pc]; simp [pcAfter, pcPlus]
  all_goals cases h; exact toNat_advance_pc _

/-- Settles O27: every instruction by its row, an unknown word as an advance after its report. -/
theorem programCounterFollowsTheTable : Obligations.ProgramCounterFollowsTheTable :=
  ⟨fun _ _ _ => exec_pc, fun w s => toNat_advance_pc (reportUnknown w s)⟩

/-! ### The stack pointer (R20) -/

theorem exec_call_depth {nnn : Addr} {s t : State} (h : exec (.call nnn) s = .next t) :
    (depth s.sp = 16 ∧ t = raiseFatal .stackOverflow s) ∨ depth t.sp = depth s.sp + 1 := by
  obtain hfull | ⟨j, hj, rfl⟩ := exec_call_cases h
  · exact .inl hfull
  · exact .inr (depth_of_nextSlot hj)

theorem exec_ret_depth {s t : State} (h : exec .ret s = .next t) :
    (depth s.sp = 0 ∧ t = raiseFatal .stackUnderflow s) ∨ depth t.sp + 1 = depth s.sp := by
  obtain ⟨hsp, ht⟩ | ⟨j, hsp, rfl⟩ := exec_ret_cases h
  · exact .inl ⟨(depth_eq_zero_iff _).2 hsp, ht⟩
  · exact .inr (by rw [setSp_sp, depth_slotBelow, hsp]; rfl)

/-- What the execute phase does to the stack pointer. -/
theorem execDecoded_sp {d : Decoded} {s t : State} (h : execDecoded d s = .next t) :
    t.sp = s.sp ∨ ((∃ nnn, d = .instr (.call nnn)) ∧ depth t.sp = depth s.sp + 1) ∨
      (d = .instr .ret ∧ depth t.sp + 1 = depth s.sp) := by
  cases d with
  | unknownOpcode w => cases h; exact .inl rfl
  | instr i =>
    by_cases hcall : ∃ nnn, i = .call nnn
    · obtain ⟨nnn, rfl⟩ := hcall
      obtain ⟨-, rfl⟩ | hup := exec_call_depth h
      · exact .inl rfl
      · exact .inr (.inl ⟨⟨nnn, rfl⟩, hup⟩)
    by_cases hret : i = .ret
    · subst hret
      obtain ⟨-, rfl⟩ | hdown := exec_ret_depth h
      · exact .inl rfl
      · exact .inr (.inr ⟨rfl, hdown⟩)
    obtain ⟨-, hstack, -⟩ := controlStateWrittenByListedInstructions i s t h
    obtain ⟨hsp, -⟩ := hstack hret (not_exists.1 hcall)
    exact .inl hsp

@[simp] theorem inputPhase_sp (s : State) : (inputPhase s).sp = s.sp := by
  obtain ⟨ks, nk, r, h, -⟩ := inputPhase_frame s
  rw [h]; rfl

@[simp] theorem publishPhase_sp (s : State) : (publishPhase s).sp = s.sp := by
  unfold publishPhase
  split <;> rfl

@[simp] theorem finishTick_sp (s : State) : (finishTick s).sp = s.sp := by
  by_cases h : s.run = .running
  · rw [finishTick_running s h, endTick_sp, publishPhase_sp, timerPhase_sp]
  · rw [finishTick_stopped s h, endTick_sp]

/-- A tick moves the stack pointer as its execute phase does; the other phases leave it alone. -/
theorem step_sp {s t : State} (h : step s = .next t) :
    t.sp = s.sp ∨ ((∃ nnn, decode (fetch (inputPhase s)) = .instr (.call nnn)) ∧ depth t.sp = depth s.sp + 1) ∨
      (decode (fetch (inputPhase s)) = .instr .ret ∧ depth t.sp + 1 = depth s.sp) := by
  obtain ⟨-, ⟨-, rfl⟩ | ⟨-, u, hu, rfl⟩⟩ := step_cases h
  · exact .inl (inputPhase_sp s)
  · have hsp := execDecoded_sp hu
    rwa [inputPhase_sp, ← finishTick_sp u] at hsp

/-- Settles O29: both stack instructions by their two outcomes, a tick by its execute phase. -/
theorem stackPointerMovesByOneOrNot : Obligations.StackPointerMovesByOneOrNot := by
  refine ⟨fun nnn s t h => ?_, fun s t h => ?_, fun s t h => ⟨depth_le t.sp, step_sp h⟩⟩
  · split_ifs with hfull
    · obtain ⟨-, ht⟩ | hup := exec_call_depth h
      · exact ht
      · have hle := depth_le t.sp
        omega
    · exact (exec_call_depth h).resolve_left fun hfault => hfull hfault.1
  · split_ifs with hempty
    · obtain ⟨-, ht⟩ | hdown := exec_ret_depth h
      · exact ht
      · omega
    · exact (exec_ret_depth h).resolve_left fun hfault => hempty hfault.1

end Sys2Proof.Safety

/-! ## Memory: its addresses, the fetch, the stores of `FX55` and the loader (20_memory.md) -/

namespace Sys2Proof.Machine

/-! ### Addresses (R45, R46) -/

/-- The next offset names the next address, mod 4096: also across the end of memory. -/
theorem wrapAddr_succ (base : Word) (k : Nat) : wrapAddr base (k + 1) = wrapAddr base k + 1 :=
  BitVec.ofNat_add _ 1

theorem wrapAddr_eq_ofNat_mod (base : Word) (k : Nat) : wrapAddr base k = BitVec.ofNat 12 ((base.toNat + k) % 4096) :=
  BitVec.eq_of_toNat_eq (by rw [toNat_wrapAddr, BitVec.toNat_ofNat, Nat.mod_mod])

/-- Settles O22: the data address is the wrapped sum on `I`. -/
theorem dataAddressWraps : Obligations.DataAddressWraps := fun s => toNat_wrapAddr s.i

/-! ### The fetch (R46, R47) -/

/-- A word is its high byte times 256 plus its low byte (R47). -/
theorem toNat_wordOfBytes (hi lo : Byte) : (wordOfBytes hi lo).toNat = 256 * hi.toNat + lo.toNat := by
  have happend : (wordOfBytes hi lo).toNat = hi.toNat <<< 8 ||| lo.toNat := BitVec.toNat_append hi lo
  rw [happend, ← Nat.shiftLeft_add_eq_or_of_lt lo.isLt, Nat.shiftLeft_eq, Nat.mul_comm]

/-- Settles O21: the two bytes of the fetched word by their weights, each address by its sum mod 4096. -/
theorem fetchIsBigEndianAndWraps : Obligations.FetchIsBigEndianAndWraps := by
  intro s
  rw [fetch, toNat_wordOfBytes, wrapAddr_eq_ofNat_mod, wrapAddr_eq_ofNat_mod, Nat.add_zero]

/-! ### What `FX55` stores (R145) -/

@[simp] theorem length_regsUpTo (s : State) (x : Nibble) : (regsUpTo s x).length = x.toNat + 1 := by
  simp [regsUpTo]

@[simp] theorem getElem_regsUpTo (s : State) (x : Nibble) (k : Nat) (hk : k < (regsUpTo s x).length) :
    (regsUpTo s x)[k] = readReg s (BitVec.ofNat 4 k) := by
  simp [regsUpTo]

/-- After `FX55` the byte at `EA(k)` is `V[k]`, for every `k` up to `x` (R145, D9). -/
theorem exec_storeRegs_readByte {x : Nibble} {s t : State} (h : exec (.storeRegs x) s = .next t) {k : Nat}
    (hk : k ≤ x.toNat) : readByte t (dataAddr s k) = readReg s (BitVec.ofNat 4 k) := by
  cases h
  have hlen : (regsUpTo s x).length ≤ 4096 := by rw [length_regsUpTo]; omega
  have hread := storeBytes_read s.i 0 (regsUpTo s x) s hlen k (by rw [length_regsUpTo]; omega)
  rwa [Nat.zero_add, getElem_regsUpTo] at hread

/-- Settles O23: the two fetched addresses are those of the two stored registers, since the next address of either
kind is one more, mod 4096. -/
theorem storedWordIsFetched : Obligations.StoredWordIsFetched := by
  intro s t u x k h hk hmem hpc
  have hpc' : wrapAddr u.pc 1 = dataAddr s (k + 1) := by
    rw [wrapAddr_succ, hpc]
    exact (wrapAddr_succ s.i k).symm
  rw [fetch, hpc, hpc', hmem, hmem, exec_storeRegs_readByte h (Nat.le_of_succ_le hk), exec_storeRegs_readByte h hk]

/-! ### The loader (R52) -/

theorem loadProgram_of_length_gt {bytes : List Byte} (h : Config.progMax < bytes.length) (s : State) :
    loadProgram bytes s = .error .loadTooLarge := if_pos h

theorem loadProgram_of_length_le {bytes : List Byte} (h : bytes.length ≤ Config.progMax) (s : State) :
    loadProgram bytes s = .ok (storeBytes (BitVec.ofNat 16 Config.progBase) 0 bytes s) := if_neg (Nat.not_lt.2 h)

/-- A loaded program stands where R52 says, at 0x200 plus its index. -/
theorem wrapAddr_progBase (j : Nat) :
    wrapAddr (BitVec.ofNat 16 Config.progBase) (0 + j) = BitVec.ofNat 12 (0x200 + j) := by
  rw [Nat.zero_add]; rfl

/-- A program that fits does not reach the end of memory, so its addresses do not wrap. -/
theorem toNat_progAddr {j : Nat} (h : j < Config.progMax) : (BitVec.ofNat 12 (0x200 + j)).toNat = 0x200 + j :=
  (BitVec.toNat_ofNat _ _).trans (Nat.mod_eq_of_lt (Nat.add_lt_of_lt_sub' h))

/-- Settles O20: the loader is one store of the whole program, which fits above 0x200 without wrapping. -/
theorem loaderCopiesTheProgramVerbatim : Obligations.LoaderCopiesTheProgramVerbatim := by
  refine fun bytes s => ⟨fun hlong => loadProgram_of_length_gt hlong s, fun hfits =>
    ⟨_, loadProgram_of_length_le hfits s, fun j hj => ?_, fun a ha => ?_, ?_⟩⟩
  · rw [← wrapAddr_progBase]
    exact storeBytes_read _ 0 bytes s (by omega) j hj
  · refine storeBytes_read_other _ 0 bytes s a fun j hj e => ?_
    rw [wrapAddr_progBase] at e
    have haddr := toNat_progAddr (Nat.lt_of_lt_of_le hj hfits)
    rw [← e] at haddr
    omega
  · obtain ⟨m, hm⟩ := storeBytes_frame (BitVec.ofNat 16 Config.progBase) 0 bytes s
    rw [hm]

end Sys2Proof.Machine

/-! ### Who writes memory (R42) -/

namespace Sys2Proof.Safety

open Sys2Proof.Machine

theorem memWritten_eq_nil {i : Instr} {s : State} (hldB : ∀ x, i ≠ .ldB x) (hstore : ∀ x, i ≠ .storeRegs x) :
    memWritten i s = [] := by
  cases i
  case ldB x => exact absurd rfl (hldB x)
  case storeRegs x => exact absurd rfl (hstore x)
  all_goals rfl

/-- Settles O24: the memory part of the footprint is empty for every other instruction. -/
theorem onlyBcdAndDumpWriteMemory : Obligations.OnlyBcdAndDumpWriteMemory := by
  intro i s t h hldB hstore a
  obtain ⟨-, hmem, -⟩ := exec_unchanged h
  have hempty : (footprint i s).mem = [] := memWritten_eq_nil hldB hstore
  exact hmem a (by rw [hempty]; exact List.not_mem_nil)

end Sys2Proof.Safety

/-! ## The decoder and the encoder (30_encoding.md) -/

namespace Sys2Proof.Laws

/-! ### The fields of an encoded word (R61, R62) -/

section

variable (op x y n : Nibble) (nn : Byte) (nnn : Addr)

@[simp] theorem fieldOp_encNNN : fieldOp (encNNN op nnn) = op := BitVec.extractLsb'_append_eq_left

@[simp] theorem fieldNNN_encNNN : fieldNNN (encNNN op nnn) = nnn := BitVec.extractLsb'_append_eq_right

@[simp] theorem fieldOp_encXNN : fieldOp (encXNN op x nn) = op :=
  (BitVec.extractLsb'_append_eq_of_le (by decide)).trans BitVec.extractLsb'_append_eq_left

@[simp] theorem fieldX_encXNN : fieldX (encXNN op x nn) = x :=
  (BitVec.extractLsb'_append_eq_of_le (by decide)).trans BitVec.extractLsb'_append_eq_right

@[simp] theorem fieldNN_encXNN : fieldNN (encXNN op x nn) = nn := BitVec.extractLsb'_append_eq_right

/-- Formats `XY` and `XYN` are format `XNN` with `nn` cut into two nibbles. -/
theorem encXYN_eq_encXNN : encXYN op x y n = encXNN op x (y ++ n) := rfl

@[simp] theorem fieldOp_encXYN : fieldOp (encXYN op x y n) = op := fieldOp_encXNN op x (y ++ n)

@[simp] theorem fieldX_encXYN : fieldX (encXYN op x y n) = x := fieldX_encXNN op x (y ++ n)

@[simp] theorem fieldY_encXYN : fieldY (encXYN op x y n) = y :=
  (BitVec.extractLsb'_append_eq_of_add_le (by decide)).trans BitVec.extractLsb'_append_eq_left

@[simp] theorem fieldN_encXYN : fieldN (encXYN op x y n) = n :=
  (BitVec.extractLsb'_append_eq_of_add_le (by decide)).trans BitVec.extractLsb'_append_eq_right

end

/-! ### A word is put together again from its fields -/

section

variable {w : Word} {op n : Nibble} {nn : Byte}

theorem encNNN_of_fields (hop : fieldOp w = op) : encNNN op (fieldNNN w) = w := by
  subst hop
  exact BitVec.extractLsb'_append_extractLsb'

theorem encXNN_of_fields (hop : fieldOp w = op) (hnn : fieldNN w = nn) : encXNN op (fieldX w) nn = w := by
  subst hop hnn
  have hhigh : (fieldOp w ++ fieldX w : BitVec 8) = w.extractLsb' 8 8 :=
    BitVec.extractLsb'_append_extractLsb'_eq_extractLsb' rfl
  rw [encXNN, hhigh]
  exact BitVec.extractLsb'_append_extractLsb'

theorem encXYN_of_fields (hop : fieldOp w = op) (hn : fieldN w = n) : encXYN op (fieldX w) (fieldY w) n = w := by
  subst hn
  have hlow : (fieldY w ++ fieldN w : BitVec 8) = fieldNN w :=
    BitVec.extractLsb'_append_extractLsb'_eq_extractLsb' rfl
  exact encXNN_of_fields hop hlow.symm

end

/-- The decoder reads back the bytes memory holds for a word (R47). -/
theorem decodeBytes_bytesOfWord (w : Word) : decodeBytes (bytesOfWord w) = .word (decode w) := by
  have hw : wordOfBytes (w.extractLsb' 8 8) (w.extractLsb' 0 8) = w := BitVec.extractLsb'_append_extractLsb'
  exact congrArg (fun v => BytesDecoded.word (decode v)) hw

/-! ### Decoding after encoding -/

/-- The decoder finds the operands of every format in its fields, and the selector of its group (R64). -/
theorem decode_encode (i : Instr) : decode (encode i) = .instr i := by
  cases i
  case cls | ret => decide
  case jp | call | ldI | jpV0 => simp [encode, decode]
  case seImm | sneImm | ldImm | addImm | rnd => simp [encode, decode]
  case seReg | sneReg => simp [encode, decode, decodeLowNibbleZero]
  case ldReg | orReg | andReg | xorReg | addReg | subReg | shr | subn | shl => simp [encode, decode, decodeGroup8]
  case drw => simp [encode, decode]
  case skp | sknp => simp [encode, decode, decodeGroupE]
  all_goals simp [encode, decode, decodeGroupF]

/-- Settles O1: the word by its fields, the two bytes by putting the word together. -/
theorem decodeOfEncodeIsIdentity : Obligations.DecodeOfEncodeIsIdentity := fun i =>
  ⟨decode_encode i, by rw [decodeBytes_bytesOfWord, decode_encode]⟩

/-! ### Encoding after decoding -/

section

variable {w : Word} {i : Instr}

theorem encode_of_decodeGroup0 (h : decodeGroup0 w = .instr i) : encode i = w := by
  unfold decodeGroup0 at h
  split_ifs at h with hcls hret <;> cases h
  · exact hcls.symm
  · exact hret.symm

theorem decodeLowNibbleZero_eq_instr {j : Instr} (h : decodeLowNibbleZero w j = .instr i) : fieldN w = 0 ∧ j = i := by
  unfold decodeLowNibbleZero at h
  split_ifs at h with hn
  cases h
  exact ⟨hn, rfl⟩

theorem encode_of_decodeGroup8 (hop : fieldOp w = 0x8) (h : decodeGroup8 w = .instr i) : encode i = w := by
  unfold decodeGroup8 at h
  split at h <;> cases h
  all_goals exact encXYN_of_fields hop (BitVec.eq_of_toNat_eq ‹_›)

theorem encode_of_decodeGroupE (hop : fieldOp w = 0xE) (h : decodeGroupE w = .instr i) : encode i = w := by
  unfold decodeGroupE at h
  split_ifs at h <;> cases h
  all_goals exact encXNN_of_fields hop ‹_›

theorem encode_of_decodeGroupF (hop : fieldOp w = 0xF) (h : decodeGroupF w = .instr i) : encode i = w := by
  unfold decodeGroupF at h
  split_ifs at h <;> cases h
  all_goals exact encXNN_of_fields hop ‹_›

/-- The group fixes `op`, the selector the fixed low bits, and the operands are all the other bits (R61, R64). -/
theorem encode_of_decode (h : decode w = .instr i) : encode i = w := by
  unfold decode at h
  split at h
  case h_1 => exact encode_of_decodeGroup0 h
  case h_2 | h_3 | h_11 | h_12 => cases h; exact encNNN_of_fields (BitVec.eq_of_toNat_eq ‹_›)
  case h_4 | h_5 | h_7 | h_8 | h_13 => cases h; exact encXNN_of_fields (BitVec.eq_of_toNat_eq ‹_›) rfl
  case h_6 | h_10 =>
    obtain ⟨hn, rfl⟩ := decodeLowNibbleZero_eq_instr h
    exact encXYN_of_fields (BitVec.eq_of_toNat_eq ‹_›) hn
  case h_9 hop => exact encode_of_decodeGroup8 (BitVec.eq_of_toNat_eq hop) h
  case h_14 hop => cases h; exact encXYN_of_fields (BitVec.eq_of_toNat_eq hop) rfl
  case h_15 hop => exact encode_of_decodeGroupE (BitVec.eq_of_toNat_eq hop) h
  case h_16 hop => exact encode_of_decodeGroupF (BitVec.eq_of_toNat_eq hop) h
  case h_17 => cases h

end

/-- Settles O2, branch by branch of the decoder. -/
theorem encodeOfDecodedIsTheWord : Obligations.EncodeOfDecodedIsTheWord := fun _ _ => encode_of_decode

/-- Decoding and encoding are inverse, so what the decoder answers is a question about the encoder. -/
theorem decode_eq_instr_iff (w : Word) (i : Instr) : decode w = .instr i ↔ encode i = w :=
  ⟨encode_of_decode, fun h => h ▸ decode_encode i⟩

/-! ### The opcode map (R63) -/

/-- Every encoded instruction matches its own row of the table. -/
theorem matchesRow (i : Instr) : MatchesRow.Statement i := by
  cases i
  case cls => exact MatchesRow.cls
  case ret => exact MatchesRow.ret
  case jp => exact MatchesRow.jp _
  case call => exact MatchesRow.call _
  case seImm => exact MatchesRow.seImm _ _
  case sneImm => exact MatchesRow.sneImm _ _
  case seReg => exact MatchesRow.seReg _ _
  case ldImm => exact MatchesRow.ldImm _ _
  case addImm => exact MatchesRow.addImm _ _
  case ldReg => exact MatchesRow.ldReg _ _
  case orReg => exact MatchesRow.orReg _ _
  case andReg => exact MatchesRow.andReg _ _
  case xorReg => exact MatchesRow.xorReg _ _
  case addReg => exact MatchesRow.addReg _ _
  case subReg => exact MatchesRow.subReg _ _
  case shr => exact MatchesRow.shr _ _
  case subn => exact MatchesRow.subn _ _
  case shl => exact MatchesRow.shl _ _
  case sneReg => exact MatchesRow.sneReg _ _
  case ldI => exact MatchesRow.ldI _
  case jpV0 => exact MatchesRow.jpV0 _
  case rnd => exact MatchesRow.rnd _ _
  case drw => exact MatchesRow.drw _ _ _
  case skp => exact MatchesRow.skp _
  case sknp => exact MatchesRow.sknp _
  case ldVxDT => exact MatchesRow.ldVxDT _
  case ldVxK => exact MatchesRow.ldVxK _
  case ldDTVx => exact MatchesRow.ldDTVx _
  case ldSTVx => exact MatchesRow.ldSTVx _
  case addI => exact MatchesRow.addI _
  case ldF => exact MatchesRow.ldF _
  case ldB => exact MatchesRow.ldB _
  case storeRegs => exact MatchesRow.storeRegs _
  case loadRegs => exact MatchesRow.loadRegs _

/-- Two rows demand different values of some bit that both masks keep, so no word matches both. -/
theorem opcodeRows_disjoint :
    opcodeRows.Pairwise (fun r q => ∀ w : Word, ¬(w &&& r.mask = r.bits ∧ w &&& q.mask = q.bits)) := by
  have hdiffer : opcodeRows.Pairwise (fun r q => r.bits &&& q.mask ≠ q.bits &&& r.mask) := by decide
  refine hdiffer.imp fun {r q} hne w ⟨hr, hq⟩ => hne ?_
  calc r.bits &&& q.mask = w &&& r.mask &&& q.mask := by rw [hr]
    _ = w &&& q.mask &&& r.mask := by rw [BitVec.and_assoc, BitVec.and_comm r.mask, ← BitVec.and_assoc]
    _ = q.bits &&& r.mask := by rw [hq]

/-- The rows are named by their patterns. -/
theorem opcodeRows_eq_of_pattern {r q : OpcodeRow} (hr : r ∈ opcodeRows) (hq : q ∈ opcodeRows)
    (h : r.pattern = q.pattern) : r = q := by
  have hnodup : (opcodeRows.map OpcodeRow.pattern).Nodup := by decide
  exact List.inj_on_of_nodup_map hnodup hr hq h

/-! #### A word that matches a row is an encoding -/

section

variable {w m b : Word} {op n : Nibble} {nn : Byte}

/-- A field that the mask keeps whole has the value the row gives it. -/
theorem extractLsb'_of_mask {start len : Nat} (h : w &&& m = b) (hm : m.extractLsb' start len = BitVec.allOnes len) :
    w.extractLsb' start len = b.extractLsb' start len := by
  rw [← h, BitVec.extractLsb'_and, hm, BitVec.and_allOnes]

theorem eq_of_mask_all (h : w &&& 0xFFFF = b) : b = w := h.symm.trans BitVec.and_allOnes

theorem encNNN_of_mask (h : w &&& 0xF000 = encNNN op 0) : encNNN op (fieldNNN w) = w :=
  encNNN_of_fields ((extractLsb'_of_mask h (by decide)).trans (fieldOp_encNNN op 0))

theorem encXNN_of_mask (h : w &&& 0xF000 = encXNN op 0 0) : encXNN op (fieldX w) (fieldNN w) = w :=
  encXNN_of_fields ((extractLsb'_of_mask h (by decide)).trans (fieldOp_encXNN op 0 0)) rfl

theorem encXNN_of_maskSub (h : w &&& 0xF0FF = encXNN op 0 nn) : encXNN op (fieldX w) nn = w :=
  encXNN_of_fields ((extractLsb'_of_mask h (by decide)).trans (fieldOp_encXNN op 0 nn))
    ((extractLsb'_of_mask h (by decide)).trans (fieldNN_encXNN op 0 nn))

theorem encXYN_of_mask (h : w &&& 0xF000 = encXYN op 0 0 0) : encXYN op (fieldX w) (fieldY w) (fieldN w) = w :=
  encXYN_of_fields ((extractLsb'_of_mask h (by decide)).trans (fieldOp_encXYN op 0 0 0)) rfl

theorem encXYN_of_maskSub (h : w &&& 0xF00F = encXYN op 0 0 n) : encXYN op (fieldX w) (fieldY w) n = w :=
  encXYN_of_fields ((extractLsb'_of_mask h (by decide)).trans (fieldOp_encXYN op 0 0 n))
    ((extractLsb'_of_mask h (by decide)).trans (fieldN_encXYN op 0 0 n))

end

/-- Every word that matches the row is the encoding of an instruction of its pattern. -/
def RowIsEncoding (row : OpcodeRow) : Prop :=
  ∀ w : Word, w &&& row.mask = row.bits → ∃ i, encode i = w ∧ i.pattern = row.pattern

theorem rowsPlain_areEncodings : ∀ row ∈ opcodeRowsPlain, RowIsEncoding row := by
  simp only [opcodeRowsPlain, List.forall_mem_cons]
  exact ⟨fun w h => ⟨.cls, eq_of_mask_all h, rfl⟩,
    fun w h => ⟨.ret, eq_of_mask_all h, rfl⟩,
    fun w h => ⟨.jp (fieldNNN w), encNNN_of_mask h, rfl⟩,
    fun w h => ⟨.call (fieldNNN w), encNNN_of_mask h, rfl⟩,
    fun w h => ⟨.seImm (fieldX w) (fieldNN w), encXNN_of_mask h, rfl⟩,
    fun w h => ⟨.sneImm (fieldX w) (fieldNN w), encXNN_of_mask h, rfl⟩,
    fun w h => ⟨.seReg (fieldX w) (fieldY w), encXYN_of_maskSub h, rfl⟩,
    fun w h => ⟨.ldImm (fieldX w) (fieldNN w), encXNN_of_mask h, rfl⟩,
    fun w h => ⟨.addImm (fieldX w) (fieldNN w), encXNN_of_mask h, rfl⟩,
    fun w h => ⟨.sneReg (fieldX w) (fieldY w), encXYN_of_maskSub h, rfl⟩,
    fun w h => ⟨.ldI (fieldNNN w), encNNN_of_mask h, rfl⟩,
    fun w h => ⟨.jpV0 (fieldNNN w), encNNN_of_mask h, rfl⟩,
    fun w h => ⟨.rnd (fieldX w) (fieldNN w), encXNN_of_mask h, rfl⟩,
    fun w h => ⟨.drw (fieldX w) (fieldY w) (fieldN w), encXYN_of_mask h, rfl⟩,
    List.forall_mem_nil _⟩

theorem rowsAlu_areEncodings : ∀ row ∈ opcodeRowsAlu, RowIsEncoding row := by
  simp only [opcodeRowsAlu, List.forall_mem_cons]
  exact ⟨fun w h => ⟨.ldReg (fieldX w) (fieldY w), encXYN_of_maskSub h, rfl⟩,
    fun w h => ⟨.orReg (fieldX w) (fieldY w), encXYN_of_maskSub h, rfl⟩,
    fun w h => ⟨.andReg (fieldX w) (fieldY w), encXYN_of_maskSub h, rfl⟩,
    fun w h => ⟨.xorReg (fieldX w) (fieldY w), encXYN_of_maskSub h, rfl⟩,
    fun w h => ⟨.addReg (fieldX w) (fieldY w), encXYN_of_maskSub h, rfl⟩,
    fun w h => ⟨.subReg (fieldX w) (fieldY w), encXYN_of_maskSub h, rfl⟩,
    fun w h => ⟨.shr (fieldX w) (fieldY w), encXYN_of_maskSub h, rfl⟩,
    fun w h => ⟨.subn (fieldX w) (fieldY w), encXYN_of_maskSub h, rfl⟩,
    fun w h => ⟨.shl (fieldX w) (fieldY w), encXYN_of_maskSub h, rfl⟩,
    List.forall_mem_nil _⟩

theorem rowsEF_areEncodings : ∀ row ∈ opcodeRowsEF, RowIsEncoding row := by
  simp only [opcodeRowsEF, List.forall_mem_cons]
  exact ⟨fun w h => ⟨.skp (fieldX w), encXNN_of_maskSub h, rfl⟩,
    fun w h => ⟨.sknp (fieldX w), encXNN_of_maskSub h, rfl⟩,
    fun w h => ⟨.ldVxDT (fieldX w), encXNN_of_maskSub h, rfl⟩,
    fun w h => ⟨.ldVxK (fieldX w), encXNN_of_maskSub h, rfl⟩,
    fun w h => ⟨.ldDTVx (fieldX w), encXNN_of_maskSub h, rfl⟩,
    fun w h => ⟨.ldSTVx (fieldX w), encXNN_of_maskSub h, rfl⟩,
    fun w h => ⟨.addI (fieldX w), encXNN_of_maskSub h, rfl⟩,
    fun w h => ⟨.ldF (fieldX w), encXNN_of_maskSub h, rfl⟩,
    fun w h => ⟨.ldB (fieldX w), encXNN_of_maskSub h, rfl⟩,
    fun w h => ⟨.storeRegs (fieldX w), encXNN_of_maskSub h, rfl⟩,
    fun w h => ⟨.loadRegs (fieldX w), encXNN_of_maskSub h, rfl⟩,
    List.forall_mem_nil _⟩

theorem rows_areEncodings {row : OpcodeRow} (hrow : row ∈ opcodeRows) : RowIsEncoding row := by
  simp only [opcodeRows, List.mem_append] at hrow
  obtain (hplain | halu) | hef := hrow
  · exact rowsPlain_areEncodings row hplain
  · exact rowsAlu_areEncodings row halu
  · exact rowsEF_areEncodings row hef

/-- The encoding of an instruction matches the one row with its pattern. -/
theorem encode_and_mask {i : Instr} {row : OpcodeRow} (hrow : row ∈ opcodeRows) (hp : i.pattern = row.pattern) :
    encode i &&& row.mask = row.bits := by
  obtain ⟨r, hr, hpat, hhits⟩ := matchesRow i
  obtain rfl : r = row := opcodeRows_eq_of_pattern hr hrow (hpat.trans hp)
  exact eq_of_beq hhits

/-- Settles O3: both directions speak of encodings, since decoding is the inverse of encoding. -/
theorem decoderFollowsTheOpcodeMap : Obligations.DecoderFollowsTheOpcodeMap := by
  refine ⟨rfl, fun w row hrow => ?_, fun w i _ => ?_, opcodeRows_disjoint⟩
  · simp only [decode_eq_instr_iff]
    constructor
    · exact rows_areEncodings hrow w
    · rintro ⟨i, rfl, hp⟩
      exact encode_and_mask hrow hp
  · obtain ⟨row, hrow, hp, -⟩ := matchesRow i
    exact ⟨row, hrow, hp⟩

/-! ### The unknown words (R66, D21) -/

section

variable (w u : Word)

theorem decodeGroup0_eq_unknown_iff : decodeGroup0 w = .unknownOpcode u ↔ w = u ∧ w ≠ 0x00E0 ∧ w ≠ 0x00EE := by
  unfold decodeGroup0
  split_ifs <;> simp_all

theorem decodeLowNibbleZero_eq_unknown_iff (i : Instr) :
    decodeLowNibbleZero w i = .unknownOpcode u ↔ w = u ∧ fieldN w ≠ 0 := by
  unfold decodeLowNibbleZero
  split_ifs <;> simp_all

/-- The selectors without an instruction are those the decoder does not list. -/
theorem mem_unknownSelectors_iff :
    ∀ n : Nibble, n ∈ [0x8, 0x9, 0xA, 0xB, 0xC, 0xD, 0xF] ↔ n.toNat ∉ [0x0, 0x1, 0x2, 0x3, 0x4, 0x5, 0x6, 0x7, 0xE] := by
  decide

theorem decodeGroup8_eq_unknown_iff :
    decodeGroup8 w = .unknownOpcode u ↔ w = u ∧ fieldN w ∈ [0x8, 0x9, 0xA, 0xB, 0xC, 0xD, 0xF] := by
  rw [mem_unknownSelectors_iff]
  unfold decodeGroup8
  split <;> simp_all

theorem decodeGroupE_eq_unknown_iff : decodeGroupE w = .unknownOpcode u ↔ w = u ∧ fieldNN w ∉ [0x9E, 0xA1] := by
  unfold decodeGroupE
  split_ifs <;> simp_all

theorem decodeGroupF_eq_unknown_iff : decodeGroupF w = .unknownOpcode u ↔
    w = u ∧ fieldNN w ∉ [0x07, 0x0A, 0x15, 0x18, 0x1E, 0x29, 0x33, 0x55, 0x65] := by
  unfold decodeGroupF
  split_ifs <;> simp_all

/-- `w` stands in one of the rows of R66's table. -/
def IsUnknownWord (w : Word) : Prop :=
  (fieldOp w = 0x0 ∧ w ≠ 0x00E0 ∧ w ≠ 0x00EE) ∨ (fieldOp w = 0x5 ∧ fieldN w ≠ 0) ∨
  (fieldOp w = 0x8 ∧ fieldN w ∈ [0x8, 0x9, 0xA, 0xB, 0xC, 0xD, 0xF]) ∨ (fieldOp w = 0x9 ∧ fieldN w ≠ 0) ∨
  (fieldOp w = 0xE ∧ fieldNN w ∉ [0x9E, 0xA1]) ∨
  (fieldOp w = 0xF ∧ fieldNN w ∉ [0x07, 0x0A, 0x15, 0x18, 0x1E, 0x29, 0x33, 0x55, 0x65])

theorem fieldOp_eq_iff (k : Nibble) : fieldOp w = k ↔ (fieldOp w).toNat = k.toNat := BitVec.toNat_inj.symm

/-- Each group rejects by its own row, and the other ten groups reject nothing. -/
theorem decode_eq_unknown_iff : decode w = .unknownOpcode u ↔ w = u ∧ IsUnknownWord w := by
  have hlt : (fieldOp w).toNat < 16 := (fieldOp w).isLt
  unfold decode IsUnknownWord
  simp only [fieldOp_eq_iff]
  split
  case h_1 hop => simp [hop, decodeGroup0_eq_unknown_iff]
  case h_6 hop => simp [hop, decodeLowNibbleZero_eq_unknown_iff]
  case h_9 hop => simp [hop, decodeGroup8_eq_unknown_iff]
  case h_10 hop => simp [hop, decodeLowNibbleZero_eq_unknown_iff]
  case h_15 hop => simp [hop, decodeGroupE_eq_unknown_iff]
  case h_16 hop => simp [hop, decodeGroupF_eq_unknown_iff]
  case h_17 => simp only [imp_false] at *; omega -- `op` has no value from 16 on
  all_goals simp [*]

end

/-- Settles O4: the rejected word is the word itself, and the rows are those of the six groups that can reject. -/
theorem unknownWordsAreTheListedOnes : Obligations.UnknownWordsAreTheListedOnes := by
  refine ⟨fun w u h => ?_, fun w => ?_⟩
  · obtain ⟨hwu, -⟩ := (decode_eq_unknown_iff w u).1 h
    exact hwu.symm
  · exact (decode_eq_unknown_iff w w).trans (and_iff_right rfl)

/-- Settles O5: the decoder runs on each of the nine words. -/
theorem sampleWordsDecode : Obligations.SampleWordsDecode := by
  unfold Obligations.SampleWordsDecode
  decide

end Sys2Proof.Laws

/-! ## A tick on an unknown word (30_encoding.md R66) -/

namespace Sys2Proof.Machine

open Sys2Proof.Safety

/-- The tick of a word that no pattern matches: the report and the skip stand for the instruction (R66, R154). -/
theorem step_of_unknown {s : State} {w : Word} (hs : s.run = .running) (hin : (inputPhase s).run = .running)
    (hw : decode (fetch (inputPhase s)) = .unknownOpcode w) :
    step s = .next (finishTick (execUnknown w (inputPhase s))) := by
  simp only [step, hs, hin, tickAfterInput, hw, execDecoded]

/-- A timer loses one and stops at 0 (R156). -/
theorem toNat_decTimer (b : Byte) : (decTimer b).toNat = b.toNat - 1 := by
  unfold decTimer
  split <;> bv_omega

/-- What the publish phase leaves in the state, pending frame or not (R158). -/
theorem publishPhase_eq (s : State) : publishPhase s =
    { s with dirty := false, out := { s.out with frame := if s.dirty then some s.display else s.out.frame } } := by
  unfold publishPhase
  split
  case isTrue => rfl
  case isFalse h => rw [← Bool.eq_false_of_not_eq_true h]

/-- Settles O7: of the fields named the input phase touches the keys alone and the execute phase the report and `pc`,
and the timer and publish phases run as after any instruction. -/
theorem unknownWordIsReportedAndSkipped : Obligations.UnknownWordIsReportedAndSkipped := by
  intro s w hs hin hw
  refine ⟨_, step_of_unknown hs hin hw, ?_⟩
  have hrun : (execUnknown w (inputPhase s)).run = .running := hin
  rw [finishTick_running _ hrun, publishPhase_eq]
  obtain ⟨ks, nk, r, hframe, -⟩ := inputPhase_frame s
  rw [hframe] at hin ⊢
  exact ⟨rfl, toNat_pc_add s 2, hin, fun _ => rfl, fun _ => rfl, rfl, rfl, rfl, rfl, rfl, toNat_decTimer s.dt,
    toNat_decTimer s.st, rfl, rfl, rfl⟩

end Sys2Proof.Machine

/-! ## The register and arithmetic family (40_alu.md) -/

namespace Sys2Proof.Machine

open Sys2Proof.Safety

/-! ### The 8-bit results and flags as numbers (R6, R93) -/

theorem toNat_addByte (a b : Byte) : (addByte a b).toNat = (a.toNat + b.toNat) % 256 := by
  simp [addByte]

theorem toNat_subByte (a b : Byte) : (subByte a b).toNat = (a.toNat + 256 - b.toNat) % 256 := by
  simp [subByte]

/-- A right shift by one halves (R88). -/
theorem toNat_shrByte (a : Byte) : (shrByte a).toNat = a.toNat / 2 := by
  rw [shrByte, BitVec.toNat_ushiftRight, Nat.shiftRight_one]

/-- A left shift by one doubles and drops the carry (R90). -/
theorem toNat_shlByte (a : Byte) : (shlByte a).toNat = 2 * a.toNat % 256 := by
  rw [shlByte, BitVec.toNat_shiftLeft, Nat.shiftLeft_eq, Nat.pow_one, Nat.mul_comm]

theorem flagByte_decide (p : Prop) [Decidable p] : flagByte (decide p) = if p then 0x01 else 0x00 := by
  by_cases hp : p <;> simp [flagByte, hp]

theorem toNat_flagByte (c : Bool) : (flagByte c).toNat = c.toNat := by
  cases c <;> rfl

/-- Bit 0 is the remainder a halving drops (R88). -/
theorem toNat_shrFlag (a : Byte) : (shrFlag a).toNat = a.toNat % 2 := by
  rw [shrFlag, toNat_flagByte, BitVec.getLsbD, Nat.toNat_testBit, Nat.pow_zero, Nat.div_one]

/-- Bit 7 is the carry a doubling drops; a byte has no bit above it (R90). -/
theorem toNat_shlFlag (a : Byte) : (shlFlag a).toNat = a.toNat / 128 := by
  have ha := a.isLt
  rw [shlFlag, toNat_flagByte, BitVec.getLsbD, Nat.toNat_testBit]
  omega

/-! ### The two common shapes of the family (R94) -/

/-- `finishReg` writes one register and advances, and that is all. -/
theorem finishReg_spec (x : Nibble) (b : Byte) (s : State) :
    ∃ t, finishReg x b s = .next t ∧ readReg t x = b ∧ PcAdvanced s t ∧ Unchanged { regs := [x] } s t :=
  ⟨_, rfl, by simp, toNat_pc_add s 2,
    ((Unchanged.refl _ s).after_writeReg (List.mem_singleton_self x) b).after_advance⟩

/-- `finishRegFlag` writes a result and then its flag, so the result stays only outside `VF` (D8). -/
theorem finishRegFlag_spec (x : Nibble) (b flag : Byte) (s : State) :
    ∃ t, finishRegFlag x b flag s = .next t ∧ (x ≠ vf → readReg t x = b) ∧ readReg t vf = flag ∧
      PcAdvanced s t ∧ Unchanged { regs := [x, vf] } s t := by
  refine ⟨_, rfl, fun hx => ?_, readReg_writeRegFlag_vf x b flag s, toNat_pc_add s 2,
    ((Unchanged.refl _ s).after_writeRegFlag (by simp) (by simp) b flag).after_advance⟩
  rw [advance_readReg, writeRegFlag_def, readReg_writeReg, if_neg hx, readReg_writeReg, if_pos rfl]

/-! ### Results without a flag (R80 to R85, R91) -/

/-- Settles O32: `6XNN` is `finishReg` of its immediate. -/
theorem loadImmediateStoresNN : Obligations.LoadImmediateStoresNN := finishReg_spec

/-- Settles O33: `7XNN` is `finishReg` of the narrowed sum. -/
theorem addImmediateWrapsWithoutFlag : Obligations.AddImmediateWrapsWithoutFlag := by
  intro x nn s
  obtain ⟨t, ht, hx, hrest⟩ := finishReg_spec x (addByte (readReg s x) nn) s
  exact ⟨t, ht, by rw [hx, toNat_addByte], hrest⟩

/-- Settles O34: the four are `finishReg` of the copy and of the three bitwise operations. -/
theorem copyAndLogicWriteNoFlag : Obligations.CopyAndLogicWriteNoFlag := by
  intro x y s
  refine ⟨finishReg_spec x (readReg s y) s, ?or, ?and, ?xor⟩
  case or =>
    obtain ⟨t, ht, hx, hrest⟩ := finishReg_spec x (readReg s x ||| readReg s y) s
    exact ⟨t, ht, fun b _ => by rw [hx, BitVec.getLsbD_or], hrest⟩
  case and =>
    obtain ⟨t, ht, hx, hrest⟩ := finishReg_spec x (readReg s x &&& readReg s y) s
    exact ⟨t, ht, fun b _ => by rw [hx, BitVec.getLsbD_and], hrest⟩
  case xor =>
    obtain ⟨t, ht, hx, hrest⟩ := finishReg_spec x (readReg s x ^^^ readReg s y) s
    exact ⟨t, ht, fun b _ => by rw [hx, BitVec.getLsbD_xor], hrest⟩

/-- Settles O38: `CXNN` is `finishReg` of the masked draw; a fixed draw is what `randByte` answers, and the mask meets
its complement in no bit. -/
theorem randomByteIsMasked : Obligations.RandomByteIsMasked := by
  intro x nn s
  obtain ⟨t, ht, hx, hrest⟩ := finishReg_spec x (randByte s &&& nn) s
  refine ⟨t, ht, hx, fun d hd => ?_, ?_, hrest⟩
  · rw [hx, randByte, hd, Option.getD_some]
  · rw [hx, BitVec.and_assoc, BitVec.and_not_self]
    exact BitVec.and_zero

/-! ### Results with a flag (R86 to R90) -/

/-- Settles O35: `8XY4` is `finishRegFlag` of the narrowed sum and the carry. -/
theorem addRegistersSetsCarry : Obligations.AddRegistersSetsCarry := by
  intro x y s
  obtain ⟨t, ht, hx, hvf, hrest⟩ := finishRegFlag_spec x (addByte (readReg s x) (readReg s y))
    (carryFlag (readReg s x) (readReg s y)) s
  exact ⟨t, ht, fun hne => by rw [hx hne, toNat_addByte], hvf.trans (flagByte_decide _), hrest⟩

/-- A subtraction of `b` from `a` into `V[x]`, whichever registers they come from (R87, R89). -/
theorem finishRegFlag_sub (x : Nibble) (a b : Byte) (s : State) :
    ∃ t, finishRegFlag x (subByte a b) (notBorrowFlag a b) s = .next t ∧
      (x ≠ vf → (readReg t x).toNat = (a.toNat + 256 - b.toNat) % 256) ∧
      readReg t vf = (if a.toNat ≥ b.toNat then 0x01 else 0x00) ∧
      PcAdvanced s t ∧ Unchanged { regs := [x, vf] } s t := by
  obtain ⟨t, ht, hx, hvf, hrest⟩ := finishRegFlag_spec x (subByte a b) (notBorrowFlag a b) s
  exact ⟨t, ht, fun hne => by rw [hx hne, toNat_subByte], hvf.trans (flagByte_decide _), hrest⟩

/-- Settles O36: `8XY5` and `8XY7` are one subtraction with its operands exchanged. -/
theorem subtractionsSetNotBorrow : Obligations.SubtractionsSetNotBorrow := fun x y s =>
  ⟨finishRegFlag_sub x (readReg s x) (readReg s y) s, finishRegFlag_sub x (readReg s y) (readReg s x) s⟩

/-- Settles O37: `8XY6` and `8XYE` are `finishRegFlag` of the shifted byte and the bit it lost; neither reads `y`. -/
theorem shiftsKeepTheLostBit : Obligations.ShiftsKeepTheLostBit := by
  intro x y s
  constructor
  · obtain ⟨t, ht, hx, hvf, hrest⟩ := finishRegFlag_spec x (shrByte (readReg s x)) (shrFlag (readReg s x)) s
    exact ⟨t, ht, fun hne => by rw [hx hne, toNat_shrByte], by rw [hvf, toNat_shrFlag], hrest⟩
  · obtain ⟨t, ht, hx, hvf, hrest⟩ := finishRegFlag_spec x (shlByte (readReg s x)) (shlFlag (readReg s x)) s
    exact ⟨t, ht, fun hne => by rw [hx hne, toNat_shlByte], by rw [hvf, toNat_shlFlag], hrest⟩

/-! ### The converses of `exec_call_cases`, `exec_ret_cases` and `exec_ldVxK_cases` -/

section

variable {s : State}

theorem exec_call_of_full {nnn : Addr} (h : depth s.sp = 16) :
    exec (.call nnn) s = .next (raiseFatal .stackOverflow s) := by
  simp only [exec, execCall, (nextSlot_eq_none_iff _).2 h]

theorem exec_call_of_nextSlot {nnn : Addr} {j : Fin 16} (h : nextSlot s.sp = some j) :
    exec (.call nnn) s = .next (setPc (addrOperand nnn) (pushAt j (s.pc + 2) s)) := by
  simp only [exec, execCall, h]

theorem exec_ret_of_none (h : s.sp = none) : exec .ret s = .next (raiseFatal .stackUnderflow s) := by
  simp only [exec, execRet, h]

theorem exec_ret_of_some {j : Fin 16} (h : s.sp = some j) :
    exec .ret s = .next (setSp (slotBelow j) (setPc (s.stack[j.val]'j.isLt) s)) := by
  simp only [exec, execRet, h]

theorem exec_ldVxK_of_none {x : Nibble} (h : s.newKey = none) : exec (.ldVxK x) s = .next s := by
  simp only [exec, execLdVxK, h]

theorem exec_ldVxK_of_some {x k : Nibble} (h : s.newKey = some k) :
    exec (.ldVxK x) s = .next (advance (writeReg x (keyByte k) s)) := by
  simp only [exec, execLdVxK, h]

end

/-! ### Who reads a tick's draw and `new_key` (R92, R152) -/

/-- `s` with other values for what a tick hands to the instruction: `new_key`, the fixed draw, the tick count. -/
def withTickInputs (k : Option Nibble) (d : Option Byte) (n : Nat) (s : State) : State :=
  { s with newKey := k, draw := d, ticks := n }

section

variable (k : Option Nibble) (d : Option Byte) (n : Nat)

theorem storeBytes_withTickInputs (base : Word) (j : Nat) (bs : List Byte) (s : State) :
    storeBytes base j bs (withTickInputs k d n s) = withTickInputs k d n (storeBytes base j bs s) := by
  induction bs generalizing j s with
  | nil => rfl
  | cons b bs ih => exact ih (j + 1) (writeByte (wrapAddr base j) b s)

theorem loadRegsFrom_withTickInputs (j : Nat) (bs : List Byte) (s : State) :
    loadRegsFrom j bs (withTickInputs k d n s) = withTickInputs k d n (loadRegsFrom j bs s) := by
  induction bs generalizing j s with
  | nil => rfl
  | cons b bs ih => exact ih (j + 1) (writeReg (BitVec.ofNat 4 j) b s)

/-- An instruction commutes with a change of the tick's inputs that leaves alone the one it reads: `CXNN` the random
byte, `FX0A` the new key, any other none. -/
theorem exec_withTickInputs {i : Instr} {s t : State} (h : exec i s = .next t)
    (hrand : (∀ x nn, i ≠ .rnd x nn) ∨ randByte (withTickInputs k d n s) = randByte s)
    (hkey : (∀ x, i ≠ .ldVxK x) ∨ k = s.newKey) :
    exec i (withTickInputs k d n s) = .next (withTickInputs k d n t) := by
  cases i
  case rnd x nn =>
    have hr := hrand.resolve_left fun hne => hne x nn rfl
    cases h
    simp only [exec, execRnd, hr]
    rfl
  case ldVxK x =>
    have hk := hkey.resolve_left fun hne => hne x rfl
    subst hk
    obtain ⟨hn, hts⟩ | ⟨q, hq, rfl⟩ := exec_ldVxK_cases h
    · rw [hts]
      exact exec_ldVxK_of_none (s := withTickInputs s.newKey d n s) hn
    · exact exec_ldVxK_of_some (s := withTickInputs s.newKey d n s) hq
  case call nnn =>
    obtain ⟨hfull, rfl⟩ | ⟨j, hj, rfl⟩ := exec_call_cases h
    · exact exec_call_of_full (s := withTickInputs k d n s) hfull
    · exact exec_call_of_nextSlot (s := withTickInputs k d n s) hj
  case ret =>
    obtain ⟨hsp, rfl⟩ | ⟨j, hsp, rfl⟩ := exec_ret_cases h
    · exact exec_ret_of_none (s := withTickInputs k d n s) hsp
    · exact exec_ret_of_some (s := withTickInputs k d n s) hsp
  case ldB x =>
    cases h
    exact congrArg (fun u => Host.Outcome.next (advance u))
      (storeBytes_withTickInputs k d n s.i 0 (bcdDigits (readReg s x)) s)
  case storeRegs x =>
    cases h
    exact congrArg (fun u => Host.Outcome.next (advance u))
      (storeBytes_withTickInputs k d n s.i 0 (regsUpTo s x) s)
  case loadRegs x =>
    cases h
    exact congrArg (fun u => Host.Outcome.next (advance u))
      (loadRegsFrom_withTickInputs k d n 0 (bytesAtIndex s (x.toNat + 1)) s)
  all_goals cases h; rfl

end

/-- Settles O31: each clause changes some of a tick's inputs and keeps the others, which the instruction itself does not
write. -/
theorem tickInputsReadOnlyByTheirInstructions : Obligations.TickInputsReadOnlyByTheirInstructions := by
  intro i s t h
  obtain ⟨-, -, -, -, -, -, -, -, -, -, hnewKey, hdraw, -, hticks, -⟩ := exec_unchanged h
  refine ⟨fun hi d n => ?draw, fun hi k => ?newKey⟩
  case draw =>
    calc exec i { s with draw := d, ticks := n }
      _ = .next (withTickInputs s.newKey d n t) := exec_withTickInputs s.newKey d n h (.inl hi) (.inr rfl)
      _ = .next { t with draw := d, ticks := n } := by rw [← hnewKey]; rfl
  case newKey =>
    calc exec i { s with newKey := k }
      _ = .next (withTickInputs k s.draw s.ticks t) := exec_withTickInputs k s.draw s.ticks h (.inr rfl) (.inl hi)
      _ = .next { t with newKey := k } := by rw [← hdraw, ← hticks]; rfl

end Sys2Proof.Machine

/-! ## The control flow family (41_control_flow.md) -/

namespace Sys2Proof.Machine

open Sys2Proof.Safety

/-! ### Plain and indexed jumps (R101, R102) -/

/-- Settles O39: the 12-bit operand is the target as it stands, and `setPc` is in every frame. -/
theorem jumpSetsThePlainTarget : Obligations.JumpSetsThePlainTarget := fun nnn s =>
  ⟨_, rfl, toNat_addrOperand nnn, (Unchanged.refl {} s).after_setPc _⟩

/-- Settles O40: the sum of the operand and `V[0]` fits `pc`. -/
theorem indexedJumpAddsRegisterZero : Obligations.IndexedJumpAddsRegisterZero := fun nnn s =>
  ⟨_, rfl, toNat_addrOperand_add nnn (readReg s 0), (Unchanged.refl {} s).after_setPc _⟩

/-! ### Conditional skips (R105 to R108) -/

/-- `skipIf` moves `pc` by its condition, and that is all. -/
theorem skipIf_spec {c : Bool} {p : Prop} (hc : c = true ↔ p) (s : State) :
    PcSkipped p s (skipIf c s) ∧ Unchanged {} s (skipIf c s) := by
  refine ⟨⟨fun hp => ?_, fun hp => ?_⟩, (Unchanged.refl {} s).after_skipIf c⟩
  · rw [toNat_skipIf_pc, if_pos (hc.2 hp), pcPlus]
  · rw [toNat_skipIf_pc, if_neg (mt hc.1 hp), pcPlus]

/-- Settles O44: the four are `skipIf` of the Boolean form of their comparison. -/
theorem comparisonsSkipOneInstruction : Obligations.ComparisonsSkipOneInstruction := fun _ _ _ s =>
  ⟨⟨_, rfl, skipIf_spec beq_iff_eq s⟩, ⟨_, rfl, skipIf_spec bne_iff_ne s⟩,
    ⟨_, rfl, skipIf_spec beq_iff_eq s⟩, ⟨_, rfl, skipIf_spec bne_iff_ne s⟩⟩

/-! ### The stack slots of a push and of a pop (R19) -/

/-- Below 16 live entries the next free slot has their number as its index. -/
theorem nextSlot_of_depth_lt {p : Option (Fin 16)} (h : depth p < 16) : nextSlot p = some ⟨depth p, h⟩ := by
  cases p with
  | none => rfl
  | some j => exact dif_pos h

/-- A pop from the slot of a push leads back to the pointer before the push. -/
theorem slotBelow_depth {p : Option (Fin 16)} (h : depth p < 16) : slotBelow ⟨depth p, h⟩ = p := by
  cases p with
  | none => rfl
  | some j => exact if_neg (Nat.succ_ne_zero j.val)

/-- With `d + 1` live entries the top one is in slot `d`. -/
theorem exists_slot_of_depth_eq_succ {p : Option (Fin 16)} {d : Nat} (h : depth p = d + 1) :
    ∃ j, p = some j ∧ j.val = d := by
  cases p with
  | none => cases h
  | some j => exact ⟨j, rfl, Nat.succ.inj h⟩

/-! ### Call and return (R103, R104, R109) -/

/-- A fatal error ends its tick at once (R155, R174). -/
theorem finishTick_raiseFatal (e : FatalError) (s : State) :
    finishTick (raiseFatal e s) = endTick (raiseFatal e s) := rfl

theorem exec_call_of_depth_lt (nnn : Addr) {s : State} (h : depth s.sp < 16) :
    exec (.call nnn) s = .next (setPc (addrOperand nnn) (pushAt ⟨depth s.sp, h⟩ (s.pc + 2) s)) :=
  exec_call_of_nextSlot (nextSlot_of_depth_lt h)

/-- Settles O41: a full stack raises; otherwise the push is at the index given by the depth. -/
theorem callPushesTheReturnAddress : Obligations.CallPushesTheReturnAddress := by
  refine fun nnn s => ⟨fun hfull => ⟨exec_call_of_full hfull, finishTick_raiseFatal .stackOverflow s⟩, fun hfree => ?_⟩
  refine ⟨_, exec_call_of_depth_lt nnn hfree, toNat_addrOperand nnn, rfl, ?top, fun j hj => ?other,
    ((Unchanged.refl _ s).after_pushAt rfl _ _).after_setPc _⟩
  case top => exact Vector.getElem?_set_self hfree
  case other => exact Vector.getElem?_set_ne hfree hj.symm

/-- Settles O42: an empty stack raises; otherwise the pop moves `sp` alone, and `pc` to the top entry. -/
theorem returnPopsTheTopEntry : Obligations.ReturnPopsTheTopEntry := by
  refine fun s => ⟨fun hempty => ⟨exec_ret_of_none ((depth_eq_zero_iff _).1 hempty),
    finishTick_raiseFatal .stackUnderflow s⟩, fun d hd => ?_⟩
  obtain ⟨j, hj, rfl⟩ := exists_slot_of_depth_eq_succ hd
  exact ⟨_, exec_ret_of_some hj, Vector.getElem?_eq_getElem j.isLt, depth_slotBelow j, rfl,
    ((Unchanged.refl _ s).after_setPc _).after_setSp rfl _⟩

/-- Settles O43: the return reads the slot the call wrote, and steps down to the pointer the call started from. -/
theorem callThenReturnComesBack : Obligations.CallThenReturnComesBack := by
  intro nnn s hdepth
  have hfree : depth s.sp < 16 := Nat.lt_succ_of_le hdepth
  refine ⟨_, exec_call_of_depth_lt nnn hfree, fun u hstack hsp => ?_⟩
  refine ⟨_, exec_ret_of_some hsp, ?pc, slotBelow_depth hfree⟩
  have htop : u.stack[depth s.sp] = s.pc + 2 := by simp [hstack]
  exact (congrArg BitVec.toNat htop).trans (toNat_pc_add s 2)

end Sys2Proof.Machine

/-! ## The display family (42_display.md) -/

namespace Sys2Proof.Machine

open Sys2Proof.Safety

/-- Settles O46: `00E0` shows the blank display of its own size. -/
theorem clearTurnsEveryPixelOff : Obligations.ClearTurnsEveryPixelOff := fun s =>
  ⟨_, rfl, pixelAt_blankDisplay s.display.width s.display.height, rfl, toNat_pc_add s 2, exec_unchanged (i := .cls) rfl⟩

/-! ### What `DXYN` does, in terms of the pixels its 1 bits land on (R122) -/

/-- The new display and the collision `DXYN` computes in `s`. -/
abbrev drawnSprite (s : State) (x y n : Nibble) : Display × Bool :=
  drawSprite s.display (readReg s x) (readReg s y) (bytesAtIndex s n.toNat)

/-- A 1 bit of the sprite finds its pixel on: before the draw, or because an earlier bit landed on it. -/
def DrawCollides (s : State) (x y n : Nibble) : Prop :=
  ∃ px < s.display.width, ∃ py < s.display.height, 1 ≤ (spritePixels s x y n).count (px, py) ∧
    (pixelAt s.display px py = true ∨ 2 ≤ (spritePixels s x y n).count (px, py))

/-- On a display without pixels no point is on, so no toggle collides. -/
theorem foldl_drawPixel_hit_of_empty (ps : List (Nat × Nat)) (c : Display × Bool)
    (h : ¬(0 < c.1.width ∧ 0 < c.1.height)) : (ps.foldl drawPixel c).2 = c.2 := by
  induction ps generalizing c with
  | nil => rfl
  | cons p ps ih =>
    have off : pixelAt c.1 p.1 p.2 = false := dif_neg h
    calc ((p :: ps).foldl drawPixel c).2
      _ = (c.2 || pixelAt c.1 p.1 p.2) := ih (drawPixel c p) h
      _ = c.2 := by rw [off, Bool.or_false]

section

variable (s : State) (x y n : Nibble)

/-- The draw toggles a sequence of points that wrap, one by one, to the sprite's pixels. -/
theorem drawnSprite_eq_foldl : ∃ ps : List (Nat × Nat), drawnSprite s x y n = ps.foldl drawPixel (s.display, false) ∧
    ps.map (fun p => (p.1 % s.display.width, p.2 % s.display.height)) = spritePixels s x y n := by
  refine ⟨_, drawSprite_eq s.display (readReg s x) (readReg s y) (fun k => readByte s (dataAddr s k)) n.toNat, ?_⟩
  simp only [spritePixels, List.map_flatMap, List.map_map, Function.comp_def]

theorem pixelAt_drawnSprite {px py : Nat} (hx : px < s.display.width) (hy : py < s.display.height) :
    pixelAt (drawnSprite s x y n).1 px py =
      (pixelAt s.display px py ^^ (spritePixels s x y n).count (px, py) % 2 == 1) := by
  obtain ⟨ps, hdraw, hps⟩ := drawnSprite_eq_foldl s x y n
  rw [hdraw, foldl_drawPixel_pixel ps (s.display, false) px py hx hy, hps]

theorem drawnSprite_hit_iff : (drawnSprite s x y n).2 = true ↔ DrawCollides s x y n := by
  obtain ⟨ps, hdraw, hps⟩ := drawnSprite_eq_foldl s x y n
  rw [hdraw]
  by_cases hsize : 0 < s.display.width ∧ 0 < s.display.height
  · rw [foldl_drawPixel_hit ps _ hsize.1 hsize.2, hps]
    exact or_iff_right Bool.false_ne_true
  · rw [foldl_drawPixel_hit_of_empty ps _ hsize]
    refine iff_of_false Bool.false_ne_true ?_
    rintro ⟨px, hx, py, hy, -⟩
    exact hsize ⟨Nat.zero_lt_of_lt hx, Nat.zero_lt_of_lt hy⟩

end

theorem exec_drw_vf {x y n : Nibble} {s t : State} (h : exec (.drw x y n) s = .next t) :
    readReg t vf = flagByte (drawnSprite s x y n).2 := by
  cases h
  rw [advance_readReg, setDisplay_readReg, readReg_writeReg, if_pos rfl]

/-- Settles O59: the pixels and the collision are those of `drawnSprite`, the rest is the frame of `DXYN`. -/
theorem drawTogglesOncePerSpriteBit : Obligations.DrawTogglesOncePerSpriteBit := by
  intro x y n s
  obtain ⟨t, ht⟩ := exec_answers (.drw x y n) s
  refine ⟨t, ht, ?pixels, fun hhit => ?on, fun hmiss => ?off, ?dirty, exec_pc ht, exec_unchanged ht⟩
  case pixels => cases ht; exact fun px hx py hy => pixelAt_drawnSprite s x y n hx hy
  case on => rw [exec_drw_vf ht, (drawnSprite_hit_iff s x y n).2 hhit]; rfl
  case off => rw [exec_drw_vf ht, Bool.eq_false_iff.2 (mt (drawnSprite_hit_iff s x y n).1 hmiss)]; rfl
  case dirty => cases ht; rfl

/-! ### Displays on which no two bits of a sprite share a pixel (R123) -/

theorem mem_spritePixels_iff {s : State} {x y n : Nibble} {px py : Nat} :
    (px, py) ∈ spritePixels s x y n ↔ SpriteCovers s x y n px py := by
  simp [spritePixels, SpriteCovers, and_assoc]

/-- Offsets below the size wrap to different coordinates. -/
theorem eq_of_add_mod_eq {m a i j : Nat} (hi : i < m) (hj : j < m) (h : (a + i) % m = (a + j) % m) : i = j :=
  (Nat.ModEq.add_left_cancel' a h).eq_of_lt_of_lt hi hj

theorem nodup_spritePixels {s : State} (x y : Nibble) {n : Nibble} (hw : 8 ≤ s.display.width)
    (hh : n.toNat ≤ s.display.height) : (spritePixels s x y n).Nodup := by
  refine List.nodup_flatMap.2 ⟨fun row _ => ?columns, ?rows⟩
  case columns =>
    refine List.Nodup.map_on (fun i hi j hj hij => ?_) (List.nodup_range.filter _)
    have hi8 := List.mem_range.1 (List.mem_of_mem_filter hi)
    have hj8 := List.mem_range.1 (List.mem_of_mem_filter hj)
    exact eq_of_add_mod_eq (hi8.trans_le hw) (hj8.trans_le hw) (congrArg Prod.fst hij)
  case rows =>
    refine List.nodup_range.pairwise_of_forall_ne fun r hr q hq hne p hpr hpq => hne ?_
    obtain ⟨_, -, rfl⟩ := List.mem_map.1 hpr
    obtain ⟨_, -, hp⟩ := List.mem_map.1 hpq
    exact eq_of_add_mod_eq ((List.mem_range.1 hr).trans_le hh) ((List.mem_range.1 hq).trans_le hh)
      (congrArg Prod.snd hp).symm

/-- Settles O47: where no pixel is hit twice, the count of `DrawTogglesOncePerSpriteBit` is 1 on the covered pixels and
0 on the others. -/
theorem drawInvertsTheCoveredPixels : Obligations.DrawInvertsTheCoveredPixels := by
  intro x y n s hw hh
  have hnodup := nodup_spritePixels x y hw hh
  have once {px py : Nat} (h : SpriteCovers s x y n px py) : (spritePixels s x y n).count (px, py) = 1 :=
    List.count_eq_one_of_mem hnodup (mem_spritePixels_iff.2 h)
  have never {px py : Nat} (h : ¬SpriteCovers s x y n px py) : (spritePixels s x y n).count (px, py) = 0 :=
    List.count_eq_zero_of_not_mem (mt mem_spritePixels_iff.1 h)
  obtain ⟨t, ht, hpixels, hon, hoff, hrest⟩ := drawTogglesOncePerSpriteBit x y n s
  refine ⟨t, ht, fun px hx py hy => ⟨fun hcov => ?_, fun hcov => ?_⟩, ?hit, fun hmiss => hoff ?miss, hrest⟩
  · rw [hpixels px hx py hy, once hcov]; exact Bool.xor_true _
  · rw [hpixels px hx py hy, never hcov]; exact Bool.xor_false _
  case hit =>
    rintro ⟨px, hx, py, hy, hcov, hlit⟩
    exact hon ⟨px, hx, py, hy, (once hcov).ge, .inl hlit⟩
  case miss =>
    rintro ⟨px, hx, py, hy, hcount, hcase⟩
    have hcov : SpriteCovers s x y n px py := mem_spritePixels_iff.1 (List.count_pos_iff.1 hcount)
    have htwice := List.nodup_iff_count_le_one.1 hnodup (px, py)
    exact hmiss ⟨px, hx, py, hy, hcov, hcase.resolve_right (by omega)⟩

/-! ### The same sprite drawn twice (S8) -/

/-- After a draw the same sprite lands on the same pixels: they are named by registers other than
`VF`, `I`, memory and the display's size, and `DXYN` writes none of these. -/
theorem spritePixels_of_unchanged {x y n : Nibble} {s t : State} (hx : x ≠ vf) (hy : y ≠ vf)
    (h : Unchanged { regs := [vf], display := true } s t) : spritePixels t x y n = spritePixels s x y n := by
  obtain ⟨hregs, hmem, hi, -, -, -, -, -, -, hparams, -⟩ := h
  have hwidth : t.display.width = s.display.width := congrArg Params.screenX hparams
  have hheight : t.display.height = s.display.height := congrArg Params.screenY hparams
  have hbyte (a : Addr) : readByte t a = readByte s a := hmem a List.not_mem_nil
  simp only [spritePixels, dataAddr, hregs x (by simpa using hx), hregs y (by simpa using hy), hbyte, hi rfl, hwidth,
    hheight]

/-- Settles O48: each draw toggles a pixel as often as the other, and a pixel that the first draw left off again was hit
twice, so the second collides on it as well. -/
theorem drawingTwiceRestoresTheDisplay : Obligations.DrawingTwiceRestoresTheDisplay := by
  intro x y n s t hx hy h
  obtain ⟨t', ht, hfirst, -, -, -, -, hframe⟩ := drawTogglesOncePerSpriteBit x y n s
  cases ht.symm.trans h
  obtain ⟨u, hu, hsecond, hon, -, -, -, hframe'⟩ := drawTogglesOncePerSpriteBit x y n t
  have hsize : t.params = s.params := exec_params h
  have hsize' : u.params = t.params := exec_params hu
  have hw : t.display.width = s.display.width := congrArg Params.screenX hsize
  have hh : t.display.height = s.display.height := congrArg Params.screenY hsize
  rw [spritePixels_of_unchanged hx hy hframe, hw, hh] at hsecond hon
  refine ⟨u, hu, ?restored, fun hblank => ?collides⟩
  case restored =>
    have hw' : u.display.width = s.display.width := (congrArg Params.screenX hsize').trans hw
    have hh' : u.display.height = s.display.height := (congrArg Params.screenY hsize').trans hh
    refine display_ext hw' hh' fun px hpx py hpy => ?_
    rw [hw'] at hpx
    rw [hh'] at hpy
    rw [hsecond px hpx py hpy, hfirst px hpx py hpy, Bool.xor_assoc, Bool.xor_self, Bool.xor_false]
  case collides =>
    rintro ⟨px, hpx, py, hpy, hcov⟩
    have hcount : 1 ≤ (spritePixels s x y n).count (px, py) := List.count_pos_iff.2 (mem_spritePixels_iff.2 hcov)
    refine hon ⟨px, hpx, py, hpy, hcount, hcount.eq_or_lt.imp (fun hone => ?_) id⟩
    rw [hfirst px hpx py hpy, hblank, pixelAt_blankDisplay, ← hone]
    rfl

end Sys2Proof.Machine

/-! ## The timer and keypad family (43_timers_keypad.md) -/

namespace Sys2Proof.Machine

open Sys2Proof.Safety

/-! ### Waiting for a key over a whole tick (R135, R163) -/

/-- A tick past its input phase is the execute phase and then `finishTick`, whatever word was fetched (R153 to R158). -/
theorem step_of_execDecoded {s t : State} (hs : s.run = .running) (hin : (inputPhase s).run = .running)
    (ht : execDecoded (decode (fetch (inputPhase s))) (inputPhase s) = .next t) :
    step s = .next (finishTick t) := by
  simp only [step, hs, hin, tickAfterInput, ht]

/-- With no frame pending nothing is published (R158). -/
theorem publishPhase_of_clean {s : State} (h : s.dirty = false) : publishPhase s = s :=
  if_neg (Bool.eq_false_iff.1 h)

/-- Settles O17: the wait answers the state the input phase left, and the timer and publish phases run on that. -/
theorem keyWaitIsAFullTick : Obligations.KeyWaitIsAFullTick := by
  intro s x hs hclean hin hdecode hkey
  have hwait : execDecoded (decode (fetch (inputPhase s))) (inputPhase s) = .next (inputPhase s) := by
    rw [hdecode]
    exact exec_ldVxK_of_none hkey
  refine ⟨_, step_of_execDecoded hs hin hwait, ?_⟩
  obtain ⟨ks, nk, r, hframe, -⟩ := inputPhase_frame s
  rw [hframe] at hin ⊢
  rw [finishTick_running _ hin, publishPhase_of_clean]
  · exact ⟨rfl, rfl, rfl, rfl, rfl, rfl, rfl, hin, rfl, toNat_decTimer s.dt, toNat_decTimer s.st, rfl⟩
  · exact hclean

/-! ### Reading and setting the timers (R130, R131, R132) -/

/-- Settles O49: `FX07` writes a register as any result without a flag does, `FX15` and `FX18` one timer each. -/
theorem timerInstructionsMoveTheTimers : Obligations.TimerInstructionsMoveTheTimers := fun x s =>
  ⟨finishReg_spec x s.dt s,
    ⟨_, rfl, rfl, toNat_pc_add s 2, ((Unchanged.refl _ s).after_setDelay rfl _).after_advance⟩,
    ⟨_, rfl, rfl, toNat_pc_add s 2, ((Unchanged.refl _ s).after_setSound rfl _).after_advance⟩⟩

/-! ### The keypad (R133, R134, R135) -/

/-- The low nibble is the remainder modulo 16 (R133, D12). -/
theorem toNat_lowNibble (b : Byte) : (lowNibble b).toNat = b.toNat % 16 := by
  rw [lowNibble, BitVec.extractLsb'_toNat, Nat.shiftRight_zero]

/-- A key's number fits a register as it stands (R135). -/
theorem toNat_keyByte (k : Nibble) : (keyByte k).toNat = k.toNat :=
  BitVec.toNat_setWidth_of_le (by decide)

/-- Settles O50: the two are `skipIf` of the key's level and of its negation. -/
theorem keySkipsTestTheKeyLevel : Obligations.KeySkipsTestTheKeyLevel := by
  intro x k s hk
  have hnibble : lowNibble (readReg s x) = k := BitVec.eq_of_toNat_eq ((toNat_lowNibble _).trans hk.symm)
  rw [← hnibble]
  exact ⟨⟨_, rfl, skipIf_spec Iff.rfl s⟩, ⟨_, rfl, skipIf_spec (Bool.not_eq_true' _).to_iff s⟩⟩

/-- Settles O51: with a press `FX0A` writes a register as any result without a flag does. -/
theorem keyWaitStoresTheNewKey : Obligations.KeyWaitStoresTheNewKey := by
  refine fun x s => ⟨exec_ldVxK_of_none, fun k hk => ?_⟩
  obtain ⟨t, ht, hx, hrest⟩ := finishReg_spec x (keyByte k) s
  exact ⟨t, (exec_ldVxK_of_some hk).trans ht, by rw [hx, toNat_keyByte], hrest⟩

end Sys2Proof.Machine

/-! ## The index register and memory family (44_index_memory.md) -/

namespace Sys2Proof.Machine

open Sys2Proof.Safety

/-! ### Memory at `I` (R144, R145, R146) -/

/-- The three digits of a byte are whole bytes themselves, so their narrowing loses nothing (R144). -/
theorem toNat_bcdDigits (b : Byte) :
    (bcdDigits b).map BitVec.toNat = [b.toNat / 100, b.toNat / 10 % 10, b.toNat % 10] := by
  have hb := b.isLt
  simp only [bcdDigits, List.map_cons, List.map_nil, BitVec.toNat_ofNat, List.cons.injEq, and_true]
  omega

/-- After `FX33` the bytes at `EA(0)`, `EA(1)` and `EA(2)` are the digits in this order (R144, D10). -/
theorem exec_ldB_readByte {x : Nibble} {s t : State} (h : exec (.ldB x) s = .next t) {k : Nat} (hk : k < 3) :
    (readByte t (dataAddr s k)).toNat =
      [(readReg s x).toNat / 100, (readReg s x).toNat / 10 % 10, (readReg s x).toNat % 10][k] := by
  cases h
  have hread := storeBytes_read s.i 0 (bcdDigits (readReg s x)) s (by simp [bcdDigits]) k hk
  rw [Nat.zero_add] at hread
  simp only [← toNat_bcdDigits, List.getElem_map]
  exact congrArg BitVec.toNat hread

/-- Settles O54: the three digits are stored one after another, the frame is that of every instruction. -/
theorem bcdStoresTheDecimalDigits : Obligations.BcdStoresTheDecimalDigits := fun x _ =>
  ⟨_, rfl, exec_ldB_readByte rfl (by decide), exec_ldB_readByte rfl (by decide), exec_ldB_readByte rfl (by decide),
    exec_pc (i := .ldB x) rfl, exec_unchanged (i := .ldB x) rfl⟩

/-- Settles O55: each stored byte is read back, the frame is that of every instruction. -/
theorem dumpStoresTheRegisterRange : Obligations.DumpStoresTheRegisterRange := fun x _ =>
  ⟨_, rfl, fun _ hk => exec_storeRegs_readByte rfl hk, exec_pc (i := .storeRegs x) rfl,
    exec_unchanged (i := .storeRegs x) rfl⟩

/-- After `FX65` each register up to `V[x]` is the byte at `EA` of its own number (R146, D9). -/
theorem exec_loadRegs_readReg {x : Nibble} {s t : State} (h : exec (.loadRegs x) s = .next t) {r : Nibble}
    (hr : r.toNat ≤ x.toNat) : readReg t r = readByte s (dataAddr s r.toNat) := by
  cases h
  have hlen : (bytesAtIndex s (x.toNat + 1)).length = x.toNat + 1 := by simp [bytesAtIndex]
  have hfits : 0 + (bytesAtIndex s (x.toNat + 1)).length ≤ 16 := by rw [hlen]; omega
  have hrange : 0 ≤ r.toNat ∧ r.toNat < 0 + (bytesAtIndex s (x.toNat + 1)).length := by rw [hlen]; omega
  rw [advance_readReg, readReg_loadRegsFrom 0 _ s hfits, if_pos hrange]
  simp [bytesAtIndex, Nat.lt_succ_of_le hr]

/-- Settles O56: a number up to `x` names the register of that number, the frame is that of every instruction. -/
theorem loadFillsTheRegisterRange : Obligations.LoadFillsTheRegisterRange := by
  refine fun x s => ⟨_, rfl, fun k hk => ?_, exec_pc (i := .loadRegs x) rfl,
    exec_unchanged (i := .loadRegs x) rfl⟩
  have hnum : (BitVec.ofNat 4 k).toNat = k := Nat.mod_eq_of_lt (Nat.lt_of_le_of_lt hk x.isLt)
  rw [exec_loadRegs_readReg rfl (hnum.trans_le hk), hnum]

/-- Settles O57: the load reads each register's byte at the address the dump stored it at. -/
theorem loadAfterDumpRestoresRegisters : Obligations.LoadAfterDumpRestoresRegisters := by
  refine fun x s t u hdump hi hmem => ⟨_, rfl, fun r hr => ?_⟩
  have haddr : dataAddr u r.toNat = dataAddr s r.toNat := by rw [dataAddr, hi, dataAddr]
  rw [exec_loadRegs_readReg rfl hr, haddr, hmem, exec_storeRegs_readByte hdump hr, BitVec.ofNat_toNat,
    BitVec.setWidth_eq]

/-! ### Writing `I` (R141, R142, R143) -/

/-- The common shape of `ANNN`, `FX1E` and `FX29`: `I` is written, `pc` advances, and that is all. -/
theorem advance_setIndex_spec (w : Word) (s : State) :
    (advance (setIndex w s)).i = w ∧ PcAdvanced s (advance (setIndex w s)) ∧
      Unchanged { index := true } s (advance (setIndex w s)) :=
  ⟨rfl, toNat_pc_add s 2, ((Unchanged.refl _ s).after_setIndex rfl w).after_advance⟩

/-- The sum of `I` and a byte keeps 16 bits (R142, D22). -/
theorem toNat_add_zext16 (w : Word) (b : Byte) : (w + zext16 b).toNat = (w.toNat + b.toNat) % 65536 := by
  rw [BitVec.toNat_add, zext16, BitVec.toNat_setWidth_of_le (by decide)]

/-- The last glyph starts far below 65536, so no address wraps (R143). -/
theorem toNat_glyphAddr (d : Nibble) : (glyphAddr d).toNat = 0x50 + 5 * d.toNat := by
  have hfits : 0x50 + 5 * d.toNat < 2 ^ 16 := by omega
  exact Nat.mod_eq_of_lt hfits

/-- Settles O52: the 12-bit operand is the index as it stands. -/
theorem loadIndexStoresNNN : Obligations.LoadIndexStoresNNN := fun nnn s =>
  ⟨_, rfl, toNat_addrOperand nnn, (advance_setIndex_spec (addrOperand nnn) s).2⟩

/-- Settles O53: the sum is 16 bits wide, the glyph that of the low nibble. -/
theorem indexSumAndGlyphAddress : Obligations.IndexSumAndGlyphAddress := by
  intro x s
  obtain ⟨hsum, hsumRest⟩ := advance_setIndex_spec (s.i + zext16 (readReg s x)) s
  obtain ⟨hglyph, hglyphRest⟩ := advance_setIndex_spec (glyphAddr (lowNibble (readReg s x))) s
  exact ⟨⟨_, rfl, by rw [hsum, toNat_add_zext16], hsumRest⟩,
    ⟨_, rfl, by rw [hglyph, toNat_glyphAddr, toNat_lowNibble], hglyphRest⟩⟩

end Sys2Proof.Machine

/-! ## The tick as a whole: its events, its ends, its timers and its frame (45_cycle_loop.md) -/

namespace Sys2Proof.Machine

open Sys2Proof.Safety

/-! ### The events of the input phase (R151) -/

theorem consumeEvents_append {es : List Event} (later : List Event) (s : State) (h : .quit ∉ es) :
    consumeEvents (es ++ later) s = consumeEvents later (consumeEvents es s) := by
  induction es generalizing s with
  | nil => rfl
  | cons e es ih =>
    cases e with
    | keyDown k => exact ih _ (fun m => h (List.mem_cons_of_mem _ m))
    | keyUp k => exact ih _ (fun m => h (List.mem_cons_of_mem _ m))
    | quit => exact absurd List.mem_cons_self h

theorem quit_notMem_concat {es : List Event} {e : Event} (h : .quit ∉ es ++ [e]) : .quit ∉ es ∧ e ≠ .quit :=
  ⟨fun m => h (List.mem_append_left _ m), fun he => h (he ▸ List.mem_concat_self)⟩

theorem keyPressed_consumeEvents_keyDown (j k : Nibble) (s : State) :
    keyPressed (consumeEvents [.keyDown j] s) k = if k = j then true else keyPressed s k :=
  keyPressed_setKey { s with newKey := noteKeyDown j s } j k true

theorem keyPressed_consumeEvents_keyUp (j k : Nibble) (s : State) :
    keyPressed (consumeEvents [.keyUp j] s) k = if k = j then false else keyPressed s k :=
  keyPressed_setKey s j k false

/-- Without a `Quit` the events change the keys and `new_key` alone (R151). -/
theorem consumeEvents_eq_of_no_quit {es : List Event} {s : State} (h : .quit ∉ es) :
    consumeEvents es s = { s with keys := (consumeEvents es s).keys, newKey := (consumeEvents es s).newKey } := by
  have hrun := consumeEvents_run es s h
  obtain ⟨ks, nk, r, hframe, -⟩ := consumeEvents_frame es s
  rw [hframe] at hrun ⊢
  rw [show r = s.run from hrun]

/-- Settles O9: the last event of the list decides if it is about the key, and the list before it otherwise. -/
theorem lastEventSetsTheKeyLevel : Obligations.LastEventSetsTheKeyLevel := by
  refine fun es s hquit => ⟨fun k => ?_, consumeEvents_eq_of_no_quit hquit⟩
  induction es using List.reverseRecOn with
  | nil => rfl
  | append_singleton es e ih =>
    obtain ⟨hes, he⟩ := quit_notMem_concat hquit
    rw [consumeEvents_append _ _ hes, List.reverse_concat]
    cases e with
    | keyDown j | keyUp j =>
      simp only [keyPressed_consumeEvents_keyDown, keyPressed_consumeEvents_keyUp, ih hes]
      by_cases hj : j = k
      · simp [hj]
      · simp [hj, Ne.symm hj]
    | quit => exact absurd rfl he

/-! ### `new_key` (R152, D13) -/

/-- No `KeyDown` of the list, consumed from `s`, finds its key up. -/
def NoPress (es : List Event) (s : State) : Prop :=
  ∀ pre k post, es = pre ++ .keyDown k :: post → keyPressed (consumeEvents pre s) k = true

theorem noteKeyDown_of_some {k j : Nibble} {s : State} (h : s.newKey = some j) : noteKeyDown k s = some j := by
  simp [noteKeyDown, h]

theorem noteKeyDown_of_up {k : Nibble} {s : State} (hup : keyPressed s k = false) (h : s.newKey = none) :
    noteKeyDown k s = some k :=
  if_pos ⟨hup, h⟩

/-- With no press before, `new_key` is set by a press of that key (R152). -/
theorem press_of_noteKeyDown {j k : Nibble} {s : State} (hs : s.newKey = none) (h : noteKeyDown j s = some k) :
    j = k ∧ keyPressed s j = false := by
  unfold noteKeyDown at h
  split at h
  · rename_i hup; exact ⟨Option.some.inj h, hup.1⟩
  · cases hs.symm.trans h

theorem noteKeyDown_of_down {k : Nibble} {s : State} (hdown : keyPressed s k = true) : noteKeyDown k s = s.newKey :=
  if_neg fun hup => Bool.false_ne_true (hup.1.symm.trans hdown)

/-- Once set, `new_key` stays to the end of the list (D13). -/
theorem consumeEvents_newKey_of_some {k : Nibble} (es : List Event) {s : State} (h : s.newKey = some k) :
    (consumeEvents es s).newKey = some k := by
  induction es generalizing s with
  | nil => exact h
  | cons e es ih =>
    cases e with
    | keyDown j => exact ih (noteKeyDown_of_some h)
    | keyUp j => exact ih h
    | quit => exact h

/-- The first press of the list is `new_key` (R152). -/
theorem consumeEvents_newKey_of_press {pre post : List Event} {k : Nibble} {s : State} (hpre : .quit ∉ pre)
    (hnone : (consumeEvents pre s).newKey = none) (hup : keyPressed (consumeEvents pre s) k = false) :
    (consumeEvents (pre ++ .keyDown k :: post) s).newKey = some k := by
  rw [consumeEvents_append _ _ hpre]
  exact consumeEvents_newKey_of_some post (noteKeyDown_of_up hup hnone)

theorem NoPress.of_concat {es : List Event} {e : Event} {s : State} (h : NoPress (es ++ [e]) s) : NoPress es s :=
  fun pre k post hes => h pre k (post ++ [e]) (by rw [hes, List.append_assoc, List.cons_append])

theorem consumeEvents_newKey_of_noPress {es : List Event} {s : State} (hquit : .quit ∉ es) (hs : s.newKey = none)
    (h : NoPress es s) : (consumeEvents es s).newKey = none := by
  induction es using List.reverseRecOn with
  | nil => exact hs
  | append_singleton es e ih =>
    obtain ⟨hes, he⟩ := quit_notMem_concat hquit
    have hnone := ih hes h.of_concat
    rw [consumeEvents_append _ _ hes]
    cases e with
    | keyDown k => exact (noteKeyDown_of_down (h es k [] rfl)).trans hnone
    | keyUp k => exact hnone
    | quit => exact absurd rfl he

theorem noPress_of_newKey_none {es : List Event} {s : State} (hquit : .quit ∉ es)
    (h : (consumeEvents es s).newKey = none) : NoPress es s := by
  rintro pre k post rfl
  have hpre : .quit ∉ pre := fun m => hquit (List.mem_append_left _ m)
  cases hbefore : (consumeEvents pre s).newKey with
  | some j =>
    rw [consumeEvents_append _ _ hpre, consumeEvents_newKey_of_some _ hbefore] at h
    cases h
  | none =>
    by_contra hdown
    rw [consumeEvents_newKey_of_press hpre hbefore (Bool.eq_false_of_not_eq_true hdown)] at h
    cases h

/-- A `new_key` comes from a press with no press before it. -/
theorem exists_press_of_newKey {es : List Event} {k : Nibble} {s : State} (hquit : .quit ∉ es) (hs : s.newKey = none)
    (h : (consumeEvents es s).newKey = some k) :
    ∃ pre post, es = pre ++ .keyDown k :: post ∧ keyPressed (consumeEvents pre s) k = false ∧ NoPress pre s := by
  induction es using List.reverseRecOn with
  | nil => cases hs.symm.trans h
  | append_singleton es e ih =>
    obtain ⟨hes, he⟩ := quit_notMem_concat hquit
    rw [consumeEvents_append _ _ hes] at h
    cases hbefore : (consumeEvents es s).newKey with
    | some j =>
      obtain rfl : j = k := Option.some.inj ((consumeEvents_newKey_of_some _ hbefore).symm.trans h)
      obtain ⟨pre, post, hsplit, hfirst⟩ := ih hes hbefore
      exact ⟨pre, post ++ [e], by rw [hsplit, List.append_assoc, List.cons_append], hfirst⟩
    | none =>
      cases e with
      | keyDown j =>
        obtain ⟨rfl, hup⟩ := press_of_noteKeyDown hbefore h
        exact ⟨es, [], rfl, hup, noPress_of_newKey_none hes hbefore⟩
      | keyUp j => cases hbefore.symm.trans h
      | quit => exact absurd rfl he

/-- Settles O10: `new_key` is set by the first press and stays. -/
theorem newKeyIsTheFirstTransition : Obligations.NewKeyIsTheFirstTransition := by
  refine fun es s hs hquit k => ⟨exists_press_of_newKey hquit hs, ?_⟩
  rintro ⟨pre, post, rfl, hup, hfirst⟩
  have hpre : .quit ∉ pre := fun m => hquit (List.mem_append_left _ m)
  exact consumeEvents_newKey_of_press hpre (consumeEvents_newKey_of_noPress hpre hs hfirst) hup

/-! ### The input phase (R151, R155) -/

@[simp] theorem inputPhase_pc (s : State) : (inputPhase s).pc = s.pc := by
  obtain ⟨ks, nk, r, h, -⟩ := inputPhase_frame s
  rw [h]; rfl

@[simp] theorem inputPhase_dirty (s : State) : (inputPhase s).dirty = s.dirty := by
  obtain ⟨ks, nk, r, h, -⟩ := inputPhase_frame s
  rw [h]; rfl

@[simp] theorem inputPhase_out (s : State) : (inputPhase s).out = Outputs.none := by
  obtain ⟨ks, nk, r, h, -⟩ := inputPhase_frame s
  rw [h]; rfl

theorem inputPhase_mem_wf {s : State} (hs : Memory.wf s.font s.mem) :
    Memory.wf (inputPhase s).font (inputPhase s).mem := by
  obtain ⟨ks, nk, r, h, -⟩ := inputPhase_frame s
  rw [h]
  exact hs

theorem inputPhase_run_cases {s : State} (hs : s.run = .running) :
    (inputPhase s).run = .running ∨ (inputPhase s).run = .quit := by
  obtain ⟨ks, nk, r, h, hr⟩ := inputPhase_frame s
  rw [h]
  exact hr.imp_left (·.trans hs)

theorem quit_mem_of_inputPhase {s : State} (hs : s.run = .running) (h : (inputPhase s).run ≠ .running) :
    .quit ∈ (nextInput s).events := by
  by_contra hquit
  exact h ((consumeEvents_run _ (beginTick s) hquit).trans hs)

/-- A `Quit` event ends the tick with its input phase (R155). -/
theorem step_of_quit {s : State} (hs : s.run = .running) (hin : (inputPhase s).run = .quit) :
    step s = .next (endTick (inputPhase s)) := by
  simp only [step, hs, hin]

/-- Settles O8: the events before the `Quit` touch nothing but keys and `new_key`, and the tick ends there. -/
theorem quitEndsTheTickBeforeTheFetch : Obligations.QuitEndsTheTickBeforeTheFetch := by
  intro s pre post r later hs hinputs hpre
  have hevents : (nextInput s).events = pre ++ .quit :: post := by simp [nextInput, hinputs]
  have hlater : (beginTick s).inputs = later := by simp [hinputs]
  have hin : inputPhase s = { consumeEvents pre (beginTick s) with run := .quit } := by
    rw [inputPhase, hevents, consumeEvents_quit pre post _ hpre]
  refine ⟨_, step_of_quit hs (by rw [hin]), ?_⟩
  rw [hin, consumeEvents_eq_of_no_quit hpre]
  exact ⟨rfl, rfl, rfl, rfl, rfl, rfl, rfl, rfl, rfl, rfl, rfl, rfl, rfl, hlater⟩

/-! ### The execute phase -/

theorem execDecoded_answers (d : Decoded) (s : State) : ∃ t, execDecoded d s = .next t := by
  cases d with
  | instr i => exact exec_answers i s
  | unknownOpcode w => exact ⟨_, rfl⟩

theorem execDecoded_mem_wf {d : Decoded} {s t : State} (h : execDecoded d s = .next t)
    (hs : Memory.wf s.font s.mem) : Memory.wf t.font t.mem := by
  cases d with
  | instr i => exact exec_mem_wf h hs
  | unknownOpcode w => cases h; exact hs

/-- What was decoded raises `e` in `s`: a call on a full stack or a return on an empty one (R173, R175). -/
def StackFault (d : Decoded) (s : State) (e : FatalError) : Prop :=
  (e = .stackOverflow ∧ depth s.sp = 16 ∧ ∃ nnn, d = .instr (.call nnn)) ∨
    (e = .stackUnderflow ∧ depth s.sp = 0 ∧ d = .instr .ret)

/-- What was decoded writes the display: `00E0` or `DXYN` (R25). -/
def WritesDisplay (d : Decoded) : Prop :=
  d = .instr .cls ∨ ∃ x y n, d = .instr (.drw x y n)

theorem execDecoded_of_stackFault {d : Decoded} {s : State} {e : FatalError} (h : StackFault d s e) :
    execDecoded d s = .next (raiseFatal e s) := by
  obtain ⟨rfl, hfull, nnn, rfl⟩ | ⟨rfl, hempty, rfl⟩ := h
  · exact exec_call_of_full hfull
  · exact exec_ret_of_none ((depth_eq_zero_iff _).1 hempty)

/-- The run state stays, or a stack fault changed it and nothing else (R173 to R175). -/
theorem execDecoded_run {d : Decoded} {s t : State} (h : execDecoded d s = .next t) :
    t.run = s.run ∨ ∃ e, StackFault d s e ∧ t = raiseFatal e s := by
  cases d with
  | unknownOpcode w => cases h; exact .inl rfl
  | instr i =>
    by_cases hcall : ∃ nnn, i = .call nnn
    · obtain ⟨nnn, rfl⟩ := hcall
      obtain ⟨hfull, ht⟩ | ⟨j, -, rfl⟩ := exec_call_cases h
      · exact .inr ⟨_, .inl ⟨rfl, hfull, nnn, rfl⟩, ht⟩
      · exact .inl rfl
    by_cases hret : i = .ret
    · subst hret
      obtain ⟨hempty, ht⟩ | ⟨j, -, rfl⟩ := exec_ret_cases h
      · exact .inr ⟨_, .inr ⟨rfl, (depth_eq_zero_iff _).2 hempty, rfl⟩, ht⟩
      · exact .inl rfl
    obtain ⟨-, hstack, -⟩ := controlStateWrittenByListedInstructions i s t h
    obtain ⟨-, -, hrun⟩ := hstack hret (not_exists.1 hcall)
    exact .inl hrun

/-- The execute phase outputs nothing but the report of an unknown word (R66). -/
theorem execDecoded_out {d : Decoded} {s t : State} (h : execDecoded d s = .next t) :
    t.out = s.out ∨ ∃ w, d = .unknownOpcode w ∧ t = execUnknown w s := by
  cases d with
  | unknownOpcode w => cases h; exact .inr ⟨w, rfl, rfl⟩
  | instr i =>
    obtain ⟨-, -, -, -, -, -, -, -, -, -, hout⟩ := controlStateWrittenByListedInstructions i s t h
    exact .inl hout

theorem execDecoded_frame {d : Decoded} {s t : State} (h : execDecoded d s = .next t) :
    t.out.frame = s.out.frame := by
  obtain hout | ⟨w, -, rfl⟩ := execDecoded_out h
  · rw [hout]
  · rfl

/-- The two display instructions mark the frame dirty, and no other word does (R25, R121, R122). -/
theorem execDecoded_dirty_iff {d : Decoded} {s t : State} (h : execDecoded d s = .next t) (hs : s.dirty = false) :
    t.dirty = true ↔ WritesDisplay d := by
  refine ⟨fun ht => ?_, ?_⟩
  · by_contra hd
    obtain ⟨hcls, hdrw⟩ := not_or.1 hd
    suffices hkeep : t.dirty = s.dirty from Bool.false_ne_true (hs.symm.trans (hkeep.symm.trans ht))
    cases d with
    | unknownOpcode w => cases h; rfl
    | instr i =>
      obtain ⟨-, -, -, -, hdisplay, -⟩ := controlStateWrittenByListedInstructions i s t h
      obtain ⟨-, hkeep⟩ := hdisplay (fun e => hcls (e ▸ rfl)) fun x y n e => hdrw ⟨x, y, n, e ▸ rfl⟩
      exact hkeep
  · rintro (rfl | ⟨x, y, n, rfl⟩) <;> cases h <;> rfl

theorem not_writesDisplay_of_stackFault {d : Decoded} {s : State} {e : FatalError} (h : StackFault d s e) :
    ¬ WritesDisplay d := by
  obtain ⟨-, -, nnn, rfl⟩ | ⟨-, -, rfl⟩ := h <;> simp [WritesDisplay]

/-! ### The end of a tick, and the cases of a step (R150, R155 to R158) -/

/-- What the timer and publish phases and the end of the tick leave (R156, R157, R158). -/
theorem finishTick_eq_of_running {s : State} (h : s.run = .running) : finishTick s =
    { s with
      dt := decTimer s.dt, st := decTimer s.st, dirty := false, newKey := none, draw := none, ticks := s.ticks + 1
      out := ⟨decide (s.st.toNat = 1), if s.dirty then some s.display else s.out.frame, s.out.unknown⟩ } := by
  rw [finishTick_running s h, publishPhase_eq]
  rfl

/-- The three ways a tick goes: cut short by a `Quit`, ended by a stack fault, or run to its end (R150, R155, R161). -/
theorem step_outcomes {s t : State} (h : step s = .next t) :
    ((inputPhase s).run = .quit ∧ .quit ∈ (nextInput s).events ∧ t = endTick (inputPhase s)) ∨
    ((inputPhase s).run = .running ∧ ∃ e, StackFault (decode (fetch (inputPhase s))) (inputPhase s) e ∧
      t = endTick (raiseFatal e (inputPhase s))) ∨
    ((inputPhase s).run = .running ∧ ∃ u, execDecoded (decode (fetch (inputPhase s))) (inputPhase s) = .next u ∧
      u.run = .running ∧ t = finishTick u) := by
  obtain ⟨hs, ⟨hin, rfl⟩ | ⟨hin, u, hu, rfl⟩⟩ := step_cases h
  · exact .inl ⟨(inputPhase_run_cases hs).resolve_left hin, quit_mem_of_inputPhase hs hin, rfl⟩
  · obtain hrun | ⟨e, he, rfl⟩ := execDecoded_run hu
    · exact .inr (.inr ⟨hin, u, hu, hrun.trans hin, rfl⟩)
    · exact .inr (.inl ⟨hin, e, he, rfl⟩)

/-! ### When a tick is defined, and how a run ends (R150, R161, R162) -/

theorem step_answers {s : State} (hs : s.run = .running) : ∃ t, step s = .next t := by
  obtain hin | hin := inputPhase_run_cases hs
  · obtain ⟨t, ht⟩ := execDecoded_answers (decode (fetch (inputPhase s))) (inputPhase s)
    exact ⟨_, step_of_execDecoded hs hin ht⟩
  · exact ⟨_, step_of_quit hs hin⟩

theorem step_of_stopped {s : State} (hs : s.run ≠ .running) : step s = .fault (.notRunning s.run) := by
  cases hr : s.run with
  | running => exact absurd hr hs
  | quit => simp only [step, hr]
  | halted e => simp only [step, hr]

/-- Settles O11: both the input phase and the execute phase always answer. -/
theorem tickIsDefinedExactlyWhenRunning : Obligations.TickIsDefinedExactlyWhenRunning :=
  fun _ => ⟨step_answers, step_of_stopped⟩

/-- Settles O12: of the three ways a tick goes, two stop the machine and the third leaves it running. -/
theorem onlyQuitOrStackFaultStopsTheMachine : Obligations.OnlyQuitOrStackFaultStopsTheMachine := by
  intro s t h
  obtain ⟨hin, hquit, rfl⟩ | ⟨-, e, hfault, rfl⟩ | ⟨-, u, -, hrun, rfl⟩ := step_outcomes h
  · exact .inr (.inl ⟨hin, hquit⟩)
  · rw [StackFault, inputPhase_sp] at hfault
    obtain ⟨rfl, hdepth, hword⟩ | ⟨rfl, hdepth, hword⟩ := hfault
    · exact .inr (.inr (.inl ⟨rfl, hdepth, hword⟩))
    · exact .inr (.inr (.inr ⟨rfl, hdepth, hword⟩))
  · have hfinish : (finishTick u).run = .running := by rw [finishTick_eq_of_running hrun, hrun]
    exact .inl ⟨hfinish, step_answers hfinish⟩

/-- Settles O45: the fault changes the run state of what the input phase left, and that ends the tick. -/
theorem stackFaultHaltsTheMachine : Obligations.StackFaultHaltsTheMachine := by
  intro s e hs hin hfault
  have hstack : StackFault (decode (fetch (inputPhase s))) (inputPhase s) e := by
    rwa [StackFault, inputPhase_sp]
  refine ⟨_, step_of_execDecoded hs hin (execDecoded_of_stackFault hstack), ?_⟩
  rw [finishTick_raiseFatal]
  obtain ⟨ks, nk, r, hframe, -⟩ := inputPhase_frame s
  rw [hframe]
  exact ⟨rfl, rfl, rfl, rfl, rfl, rfl, rfl, rfl, rfl, rfl, rfl, rfl, rfl, rfl⟩

/-- Settles O6: the decoder on the two bytes is the decoder on the fetched word, and every instruction answers. -/
theorem stepRunsTheDecodedInstruction : Obligations.StepRunsTheDecodedInstruction := by
  intro s i hs hin hbytes
  have hdecode : decode (fetch (inputPhase s)) = .instr i := by
    rw [fetch, inputPhase_pc]
    exact BytesDecoded.word.inj hbytes
  obtain ⟨t, ht⟩ := exec_answers i (inputPhase s)
  exact ⟨t, ht, step_of_execDecoded hs hin (by rw [hdecode]; exact ht), finishTick_running t, finishTick_stopped t⟩

/-! ### Timers and frames (R156, R158) -/

/-- Settles O13: after the execute phase the timer phase runs once, and the rest of the tick leaves it be. -/
theorem timersCountDownOncePerTick : Obligations.TimersCountDownOncePerTick := by
  intro s t u h hin hu hrun
  obtain ⟨hs, -⟩ := step_cases h
  cases h.symm.trans (step_of_execDecoded hs hin hu)
  rw [finishTick_eq_of_running hrun]
  exact ⟨toNat_decTimer u.dt, toNat_decTimer u.st, decide_eq_true_iff⟩

/-- What the publish phase emits is a copy of the display, if nothing was emitted before it (R158). -/
theorem frame_eq_display {s : State} {f : Display} (hs : s.out.frame = none)
    (h : (if s.dirty then some s.display else s.out.frame) = some f) : f = s.display := by
  split at h
  · exact (Option.some.inj h).symm
  · cases hs.symm.trans h

/-- Settles O14: a tick that is cut short publishes nothing, any other what its execute phase marked dirty. -/
theorem framePublishedExactlyByDisplayInstructions : Obligations.FramePublishedExactlyByDisplayInstructions := by
  intro s t hclean h
  have hcleanIn : (inputPhase s).dirty = false := (inputPhase_dirty s).trans hclean
  obtain ⟨hin, -, rfl⟩ | ⟨-, e, hfault, rfl⟩ | ⟨hin, u, hu, hrun, rfl⟩ := step_outcomes h
  · exact ⟨iff_of_false (by simp) (by simp [hin]), by simp, hcleanIn⟩
  · have hword := not_writesDisplay_of_stackFault hfault
    exact ⟨iff_of_false (by simp) fun hpublish => hword hpublish.2, by simp, hcleanIn⟩
  · have hnoFrame : u.out.frame = none := by rw [execDecoded_frame hu, inputPhase_out]
    have hword := execDecoded_dirty_iff hu hcleanIn
    rw [finishTick_eq_of_running hrun]
    refine ⟨?_, ?_, rfl⟩
    · rw [← WritesDisplay, ← hword]
      simp [hin, hnoFrame]
    · exact fun f => frame_eq_display hnoFrame

/-! ### The invariant between ticks -/

/-- A decoded unknown word is one, and names itself (R64). -/
theorem decode_of_unknown {w u : Word} (h : decode w = .unknownOpcode u) : decode u = .unknownOpcode u := by
  obtain ⟨rfl, -⟩ := (Laws.decode_eq_unknown_iff w u).1 h
  exact h

/-- A report of the execute phase is of an unknown word that stood just before `pc` (R66, R172). -/
theorem execDecoded_report {s t : State} (h : execDecoded (decode (fetch s)) s = .next t) (hs : s.out = Outputs.none)
    {p w : Word} (hreport : t.out.unknown = some (p, w)) : t.pc = p + 2 ∧ decode w = .unknownOpcode w := by
  obtain hout | ⟨v, hv, rfl⟩ := execDecoded_out h
  · rw [hout, hs] at hreport
    cases hreport
  · cases hreport
    exact ⟨rfl, decode_of_unknown hv⟩

/-- A tick that ends with no output leaves the invariant to the machine's own state (R155). -/
theorem betweenTicks_endTick {s : State} (hmem : Memory.wf s.font s.mem) (hparams : WellFormed.params s.params = true)
    (hdirty : s.dirty = false) (hout : s.out = Outputs.none) : BetweenTicks (endTick s) := by
  refine ⟨hmem, hparams, hdirty, rfl, rfl, fun _ => hout, ?_, ?_, ?_⟩ <;> simp [hout]

/-- The timer and publish phases bring about their parts of the invariant: the beep is of `ST` = 1, the frame a copy of
the display (R157, R158). -/
theorem betweenTicks_finishTick {s : State} (hrun : s.run = .running) (hmem : Memory.wf s.font s.mem)
    (hparams : WellFormed.params s.params = true) (hnoFrame : s.out.frame = none)
    (hreport : ∀ p w, s.out.unknown = some (p, w) → s.pc = p + 2 ∧ decode w = .unknownOpcode w) :
    BetweenTicks (finishTick s) := by
  rw [finishTick_eq_of_running hrun]
  refine ⟨hmem, hparams, rfl, rfl, rfl, fun hstop => absurd hrun hstop, fun f hf => ?_, fun hbeep => ?_, hreport⟩
  · exact frame_eq_display (s := s) hnoFrame hf
  · have hst : s.st.toNat = 1 := of_decide_eq_true hbeep
    exact BitVec.eq_of_toNat_eq ((toNat_decTimer s.st).trans (by rw [hst]; rfl))

/-- Settles O15: each of the three ways a tick goes meets the invariant, and only the parts about memory, the display's
size and the pending frame are needed before. -/
theorem everyStepKeepsInv : Obligations.EveryStepKeepsInv := by
  rintro s t ⟨hmem, hparams, hdirty, -⟩ h
  have hmemIn := inputPhase_mem_wf hmem
  have hparamsIn : WellFormed.params (inputPhase s).params = true := by rwa [inputPhase_params]
  have hdirtyIn : (inputPhase s).dirty = false := (inputPhase_dirty s).trans hdirty
  obtain ⟨-, -, rfl⟩ | ⟨-, e, -, rfl⟩ | ⟨-, u, hu, hrun, rfl⟩ := step_outcomes h
  · exact betweenTicks_endTick hmemIn hparamsIn hdirtyIn (inputPhase_out s)
  · exact betweenTicks_endTick (s := raiseFatal e (inputPhase s)) hmemIn hparamsIn hdirtyIn (inputPhase_out s)
  · have hparamsOut : WellFormed.params u.params = true := by rwa [execDecoded_params hu]
    have hnoFrame : u.out.frame = none := by rw [execDecoded_frame hu, inputPhase_out]
    exact betweenTicks_finishTick hrun (execDecoded_mem_wf hu hmemIn) hparamsOut hnoFrame
      fun _ _ => execDecoded_report hu (inputPhase_out s)

end Sys2Proof.Machine

/-! ## Reset, and the even program counter (70_reset_and_hazards.md) -/

namespace Sys2Proof.Machine

open Sys2Proof.Safety

/-! ### The call stack and `pc` stay even (R208, C3) -/

/-- The part of `EvenPc` about the stack: every live return address is even. -/
def EvenReturnAddresses (s : State) : Prop :=
  ∀ (j : Nat) (h : j < 16), j < depth s.sp → (s.stack[j]'h).toNat % 2 = 0

theorem evenPc_iff (s : State) : EvenPc s ↔ s.pc.toNat % 2 = 0 ∧ EvenReturnAddresses s := Iff.rfl

/-- Only the stack and its depth matter: fewer live entries of the same stack are even too. -/
theorem EvenReturnAddresses.of_depth_le {s t : State} (hs : EvenReturnAddresses s) (hstack : t.stack = s.stack)
    (hdepth : depth t.sp ≤ depth s.sp) : EvenReturnAddresses t := by
  intro j hj hlive
  simp only [hstack]
  exact hs j hj (Nat.lt_of_lt_of_le hlive hdepth)

/-- A push above the live entries adds the pushed word to them and keeps the others. -/
theorem EvenReturnAddresses.after_pushAt {s : State} (hs : EvenReturnAddresses s) {j : Fin 16}
    (hj : nextSlot s.sp = some j) {w : Word} (hw : w.toNat % 2 = 0) : EvenReturnAddresses (pushAt j w s) := by
  have hdepth : j.val + 1 = depth s.sp + 1 := depth_of_nextSlot hj
  intro k hk hlive
  have hle : k < j.val + 1 := hlive
  rw [getElem_congr_coll (pushAt_stack s j w), Vector.getElem_set]
  split
  · exact hw
  · exact hs k hk (by omega)

/-- A step of an even distance keeps `pc` even: 65536 is even, so the wrap does too (R17). -/
theorem pcPlus_even {s : State} {d : Nat} (hpc : s.pc.toNat % 2 = 0) (hd : d % 2 = 0) : pcPlus s d % 2 = 0 := by
  unfold pcPlus
  omega

/-- Every row of R16 leads to an even address: the old `pc`, 2 or 4 bytes further, the program's target, or a live
return address. -/
theorem pcAfter_even {i : Instr} {s : State} (hs : EvenPc s) (htarget : EvenTarget i s) : pcAfter i s % 2 = 0 := by
  obtain ⟨hpc, hret⟩ := hs
  have hnext : pcPlus s 2 % 2 = 0 := pcPlus_even hpc rfl
  have hskip : pcPlus s 4 % 2 = 0 := pcPlus_even hpc rfl
  cases i
  case jp | jpV0 => exact htarget
  case call nnn =>
    simp only [pcAfter]
    split
    · exact hpc
    · exact htarget
  case ret =>
    simp only [pcAfter]
    split
    · exact hpc
    · rename_i j hsp
      exact hret j.val j.isLt (hsp ▸ Nat.lt_succ_self j.val)
  case seImm | sneImm | seReg | sneReg | skp | sknp =>
    simp only [pcAfter]
    split
    · exact hskip
    · exact hnext
  case ldVxK x =>
    simp only [pcAfter]
    split
    · exact hpc
    · exact hnext
  all_goals exact hnext

/-- `2NNN` pushes `pc + 2`, `00EE` only pops, and no other instruction touches the stack (R18, R20). -/
theorem exec_evenReturnAddresses {i : Instr} {s t : State} (hs : EvenPc s) (h : exec i s = .next t) :
    EvenReturnAddresses t := by
  obtain ⟨hpc, hret⟩ := (evenPc_iff s).1 hs
  by_cases hcall : ∃ nnn, i = .call nnn
  · obtain ⟨nnn, rfl⟩ := hcall
    obtain ⟨-, rfl⟩ | ⟨j, hj, rfl⟩ := exec_call_cases h
    · exact hret
    · have hpushed : (s.pc + 2).toNat % 2 = 0 := (toNat_pc_add s 2).symm ▸ pcPlus_even hpc rfl
      exact hret.after_pushAt hj hpushed
  by_cases hpop : i = .ret
  · subst hpop
    obtain ⟨-, rfl⟩ | ⟨j, hsp, rfl⟩ := exec_ret_cases h
    · exact hret
    · have hlive : depth s.sp = j.val + 1 := by rw [hsp]; rfl
      exact hret.of_depth_le rfl (by rw [setSp_sp, depth_slotBelow]; omega)
  · obtain ⟨-, hkept, -⟩ := controlStateWrittenByListedInstructions i s t h
    obtain ⟨hsp, hstack, -⟩ := hkept hpop (not_exists.1 hcall)
    exact hret.of_depth_le hstack (Nat.le_of_eq (congrArg depth hsp))

/-- Settles O30: `pc` by the rows of R16, the return addresses by what an instruction can do to the stack. -/
theorem evenProgramCounterIsKept : Obligations.EvenProgramCounterIsKept := by
  intro i s t hs htarget h
  have hpc : t.pc.toNat % 2 = 0 := by rw [exec_pc h]; exact pcAfter_even hs htarget
  exact (evenPc_iff t).2 ⟨hpc, exec_evenReturnAddresses hs h⟩

/-! ### The state after reset (R33, R200) -/

/-- Reset lists no byte of memory, so each reads as its reset contents. -/
theorem resetWith_readByte (p : Params) (a : Addr) : readByte (State.resetWith p) a = resetByte p.font a.toNat := rfl

theorem resetByte_of_outside_font (font : Font) {a : Nat} (h : a < 0x50 ∨ 0xA0 ≤ a) : resetByte font a = 0x00 :=
  if_neg fun ⟨hlow, hhigh⟩ => h.elim (Nat.not_lt.2 hlow) (Nat.not_le.2 hhigh)

/-- Byte `j` of the font stands at `0x50 + j` (R50). -/
theorem resetByte_font (font : Font) {j : Nat} (h : j < 80) : resetByte font (0x50 + j) = font[j] := by
  have hin : Config.fontBase ≤ 0x50 + j ∧ 0x50 + j < Config.fontEnd :=
    ⟨Nat.le_add_right 0x50 j, Nat.add_lt_add_left h 0x50⟩
  rw [resetByte, if_pos hin, Nat.add_sub_cancel_left]
  simp [h]

theorem resetWith_readReg (p : Params) (r : Nibble) : readReg (State.resetWith p) r = 0 :=
  Vector.getElem_replicate r.isLt

theorem resetWith_keyPressed (p : Params) (k : Nibble) : keyPressed (State.resetWith p) k = false :=
  Vector.getElem_replicate k.isLt

theorem resetWith_resetValues (p : Params) : ResetValues p (State.resetWith p) := by
  refine ⟨resetWith_readReg p, rfl, rfl, fun _ => Vector.getElem_replicate, rfl, rfl, rfl, fun a ha => ?zeros,
    fun j hj => ?font, rfl, rfl, pixelAt_blankDisplay p.screenX p.screenY, rfl, resetWith_keyPressed p, rfl⟩
  case zeros => rw [resetWith_readByte, resetByte_of_outside_font p.font ha]
  case font =>
    have haddr : (BitVec.ofNat 12 (0x50 + j)).toNat = 0x50 + j :=
      (BitVec.toNat_ofNat _ _).trans (Nat.mod_eq_of_lt (by omega))
    rw [resetWith_readByte, haddr, resetByte_font p.font hj]

/-- Settles O18: the default machine is the one with the default parameters. -/
theorem resetLeavesTheListedState : Obligations.ResetLeavesTheListedState :=
  ⟨resetWith_resetValues, resetWith_resetValues defaultParams⟩

/-- Memory is canonical, the size is the parameters', and there is no frame, input or output yet. -/
theorem resetWith_betweenTicks {p : Params} (hp : WellFormed.params p = true) : BetweenTicks (State.resetWith p) :=
  ⟨reset_mem_wf p, hp, rfl, rfl, rfl, fun _ => rfl, nofun, nofun, nofun⟩

/-- Settles O16: the default parameters are among those with a size of at least 1 (D1). -/
theorem resetMeetsInv : Obligations.ResetMeetsInv :=
  ⟨resetWith_betweenTicks (p := defaultParams) rfl, fun _ => resetWith_betweenTicks⟩

/-- Settles O19: a reset takes over the inputs and the tick count, and `State.resetWith` has neither. -/
theorem resetWipesAnyState : Obligations.ResetWipesAnyState := fun _ => ⟨rfl, rfl, rfl⟩

end Sys2Proof.Machine
